-- ==== Sys2Proof/Word.lean ====
section
/-! DEFINITION. The widths of the values the LCG48 core handles: one abbreviation per width that spec/00_scope.md
R7 names, and the widths of the command and response words (30_encoding.md R60, R68). -/

namespace Sys2Proof

/-- One 16-bit word of a 48-bit value, and the width of the addend `C` (00_scope.md R7, `W_LIMB`, `W_C`). -/
abbrev Limb := BitVec 16

/-- A 48-bit value: the state, a seed or the multiplier (00_scope.md R7, `W_S`, `W_A`). -/
abbrev Val48 := BitVec 48

/-- The raw 32-bit operand of RESEEDI (00_scope.md R7, `W_SEEDI`). -/
abbrev Seed32 := BitVec 32

/-- The `res` field of a response (30_encoding.md R68). -/
abbrev ResWord := BitVec 64

/-- A command word `CMD` (30_encoding.md R60). -/
abbrev CmdWord := BitVec 128

/-- A response word `RSP` (30_encoding.md R68). -/
abbrev RspWord := BitVec 128

end Sys2Proof
end

