-- ==== Sys2Proof/Syntax.lean ====
section
/-! DEFINITION. The nine commands of the core, one constructor per row of spec/opcode_table.json (30_encoding.md
R63). A command carries exactly the operand fields R63 lists for it: the fields it ignores (R64) are no part of it. -/

namespace Sys2Proof

inductive Instr where
  /-- `GENU.I`, unsigned 31-bit output of the internal state (41_generate.md R95). -/
  | genuI
  /-- `GENS.I`, signed 32-bit output of the internal state (41_generate.md R96). -/
  | gensI
  /-- `GEND.I`, double output of the internal state (41_generate.md R97). -/
  | gendI
  /-- `GENU.X`, unsigned 31-bit output of the external state `x` (41_generate.md R98). -/
  | genuX (x : Val48)
  /-- `GENS.X`, signed 32-bit output of the external state `x` (41_generate.md R99). -/
  | gensX (x : Val48)
  /-- `GEND.X`, double output of the external state `x` (41_generate.md R100). -/
  | gendX (x : Val48)
  /-- `SETP`, set seed, multiplier and addend (42_seed_params.md R110). -/
  | setp (x : Val48) (y : Val48) (z : Limb)
  /-- `RESEED`, reseed with old-seed return (42_seed_params.md R111). -/
  | reseed (x : Val48)
  /-- `RESEEDI`, seed from a 32-bit scalar, the raw pattern `x[31:0]` (42_seed_params.md R112). -/
  | reseedi (v : Seed32)
  deriving DecidableEq, Repr

end Sys2Proof
end

