-- ==== Sys2Proof/WellFormed.lean ====
section
/-! DEFINITION. What is well formed before decoding or assembling. Every term of `Instr` is well formed, because
each operand has its field's exact width in its type; the checks stand where a value can be wrong: on a raw command
word (30_encoding.md R65 to R67) and on a line of the assembler (R70), whose operands are numbers of any size. -/

namespace Sys2Proof

/-- The match values of spec/opcode_table.json over `CMD[15:0]` (mask `0xFFFF`): the legal opcodes of 30_encoding.md
R63, each with `rsv = 0`. -/
def legalLowHalves : List Nat := [0x0000, 0x0001, 0x0002, 0x0004, 0x0005, 0x0006, 0x0008, 0x0009, 0x000A]

/-- A command word that spells one of the nine commands: its low 16 bits are a match value of the table. Written
apart from the decoder, so that the two can be compared. -/
def legalWord (w : CmdWord) : Bool := legalLowHalves.contains (w.toNat % 2 ^ 16)

/-- The operand of RESEEDI as the assembler reads it (30_encoding.md R70, `<seed32>`). -/
inductive SeedLiteral where
  /-- a decimal integer -/
  | dec (n : Int)
  /-- a hex value -/
  | hex (v : Nat)
  deriving DecidableEq, Repr

/-- One line of the assembler after its text is read: a mnemonic with its operands as numbers (30_encoding.md R70). -/
inductive AsmLine where
  | genuI
  | gensI
  | gendI
  | genuX (state48 : Nat)
  | gensX (state48 : Nat)
  | gendX (state48 : Nat)
  | setp (seed48 mult48 addend16 : Nat)
  | reseed (seed48 : Nat)
  | reseedi (seed32 : SeedLiteral)
  deriving DecidableEq, Repr

/-- A number fits a field of `width` bits. -/
def fits (width v : Nat) : Bool := decide (v < 2 ^ width)

/-- `<seed32>` is a decimal integer in `[-2^31, 2^31-1]` or a hex value of at most 32 bits (30_encoding.md R70). -/
def SeedLiteral.wellFormed : SeedLiteral → Bool
  | .dec n => decide (-2 ^ 31 ≤ n) && decide (n < 2 ^ 31)
  | .hex v => fits 32 v

/-- "A value too wide for its field is an assembly error; it is never truncated" (30_encoding.md R70). -/
def AsmLine.wellFormed : AsmLine → Bool
  | .genuI => true
  | .gensI => true
  | .gendI => true
  | .genuX x => fits 48 x
  | .gensX x => fits 48 x
  | .gendX x => fits 48 x
  | .setp x y z => fits 48 x && fits 48 y && fits 16 z
  | .reseed x => fits 48 x
  | .reseedi v => v.wellFormed

end Sys2Proof
end

