-- ==== Sys2Proof/Decode.lean ====
section
/-! DEFINITION. The command word's fields, the decoder (30_encoding.md R65, total on all 2^128 words) and the encoder
(the words the assembler of R70 writes). -/

namespace Sys2Proof

/-- `op = CMD[3:0]` (30_encoding.md R61). -/
def Cmd.op (w : CmdWord) : BitVec 4 := w.extractLsb' 0 4

/-- `rsv = CMD[15:4]` (30_encoding.md R61). -/
def Cmd.rsv (w : CmdWord) : BitVec 12 := w.extractLsb' 4 12

/-- `z = CMD[31:16]` (30_encoding.md R61). -/
def Cmd.z (w : CmdWord) : Limb := w.extractLsb' 16 16

/-- `y = CMD[79:32]` (30_encoding.md R61). -/
def Cmd.y (w : CmdWord) : Val48 := w.extractLsb' 32 48

/-- `x = CMD[127:80]` (30_encoding.md R61). -/
def Cmd.x (w : CmdWord) : Val48 := w.extractLsb' 80 48

/-- `seedValue = x[31:0]`, the raw 32-bit pattern (30_encoding.md R62). -/
def Cmd.seedValue (w : CmdWord) : Seed32 := (Cmd.x w).extractLsb' 0 32

/-- `CMD = {x, y, z, rsv, op}`, with `x` in the most significant bits (30_encoding.md R61). -/
def Cmd.pack (x y : Val48) (z : Limb) (rsv : BitVec 12) (op : BitVec 4) : CmdWord := x ++ y ++ z ++ rsv ++ op

/-- Why a word is illegal: both causes are the one exception `IllegalCommand` (60_exceptions.md R121, R123). -/
inductive IllegalCause where
  /-- `rsv` is not zero (30_encoding.md R66), whatever `op` is -/
  | reservedBits (rsv : BitVec 12)
  /-- `op` is `0x3`, `0x7` or `0xB` to `0xF` (30_encoding.md R67) -/
  | reservedOpcode (op : BitVec 4)
  deriving DecidableEq, Repr

/-- What a word decodes to (30_encoding.md R65). -/
inductive Decoded where
  | command (i : Instr)
  | illegal (cause : IllegalCause)
  deriving DecidableEq, Repr

/-- The opcode map of 30_encoding.md R63, once `rsv` is known to be zero. -/
def decodeOpcode (w : CmdWord) : Decoded :=
  match (Cmd.op w).toNat with
  | 0x0 => .command .genuI
  | 0x1 => .command .gensI
  | 0x2 => .command .gendI
  | 0x4 => .command (.genuX (Cmd.x w))
  | 0x5 => .command (.gensX (Cmd.x w))
  | 0x6 => .command (.gendX (Cmd.x w))
  | 0x8 => .command (.setp (Cmd.x w) (Cmd.y w) (Cmd.z w))
  | 0x9 => .command (.reseed (Cmd.x w))
  | 0xA => .command (.reseedi (Cmd.seedValue w))
  | _ => .illegal (.reservedOpcode (Cmd.op w))

/-- `decode(CMD)` of 30_encoding.md R65: the reserved bits are checked first, then the opcode. -/
def decode (w : CmdWord) : Decoded :=
  if Cmd.rsv w = 0 then decodeOpcode w else .illegal (.reservedBits (Cmd.rsv w))

/-- The opcode of a command (30_encoding.md R63). -/
def Instr.opcode : Instr → BitVec 4
  | .genuI => 0x0#4
  | .gensI => 0x1#4
  | .gendI => 0x2#4
  | .genuX _ => 0x4#4
  | .gensX _ => 0x5#4
  | .gendX _ => 0x6#4
  | .setp _ _ _ => 0x8#4
  | .reseed _ => 0x9#4
  | .reseedi _ => 0xA#4

/-- The field `x` the assembler writes: the operand R63 lists, zero where it lists none, and for RESEEDI the 32-bit
pattern with zero in `x[47:32]` (30_encoding.md R70). -/
def Instr.fieldX : Instr → Val48
  | .genuI => 0
  | .gensI => 0
  | .gendI => 0
  | .genuX x => x
  | .gensX x => x
  | .gendX x => x
  | .setp x _ _ => x
  | .reseed x => x
  | .reseedi v => v.setWidth 48

/-- The field `y` the assembler writes (30_encoding.md R63, R70). -/
def Instr.fieldY : Instr → Val48
  | .genuI => 0
  | .gensI => 0
  | .gendI => 0
  | .genuX _ => 0
  | .gensX _ => 0
  | .gendX _ => 0
  | .setp _ y _ => y
  | .reseed _ => 0
  | .reseedi _ => 0

/-- The field `z` the assembler writes (30_encoding.md R63, R70). -/
def Instr.fieldZ : Instr → Limb
  | .genuI => 0
  | .gensI => 0
  | .gendI => 0
  | .genuX _ => 0
  | .gensX _ => 0
  | .gendX _ => 0
  | .setp _ _ z => z
  | .reseed _ => 0
  | .reseedi _ => 0

/-- The command word of an instruction: `rsv = 0` and zero in every unused field (30_encoding.md R61, R63, R70). -/
def encode (i : Instr) : CmdWord := Cmd.pack i.fieldX i.fieldY i.fieldZ 0 i.opcode

/-- The command word whose low `nbits` bits are `w` and whose other bits are zero. -/
def Cmd.ofTable (nbits w : Nat) : CmdWord := BitVec.ofNat 128 (w % 2 ^ nbits)

/-- The instruction the decoder reads from a word numbered as spec/opcode_table.json numbers it. -/
def decodeTableWord (nbits w : Nat) : Option Instr :=
  match decode (Cmd.ofTable nbits w) with
  | .command i => some i
  | .illegal _ => none

end Sys2Proof
end

