-- ==== Sys2Proof/Config.lean ====
section
/-! DEFINITION. The fixed parameters of the hardware (00_scope.md R7) and its one compatibility switch (R8). The
open parameters `P_LATENCY` and `P_BUS_BINDING` stand in no rule of the model (R8) and have no constant here
(log entries 4 and 5). -/

namespace Sys2Proof.Config

/-- Default multiplier (00_scope.md R7). -/
def A_DEF : Val48 := 0x0005DEECE66D#48

/-- Default addend (00_scope.md R7). -/
def C_DEF : Limb := 0x000B#16

/-- The state register's value at reset (00_scope.md R7). -/
def S_RESET : Val48 := 0x1234ABCD330E#48

/-- The constant word 0 that RESEEDI writes (00_scope.md R7). -/
def SEEDI_LO : Limb := 0x330E#16

/-- Whether RESEEDI also restores the default parameters; `false` in this hardware (00_scope.md R8,
92_eei_decisions.md D18, log entry 6). -/
def P_SEEDI_RESETS_PARAMS : Bool := false

end Sys2Proof.Config
end

