-- ==== Sys2Proof/Machine/Operands.lean ====
section
/-! DEFINITION. Reading operands: the limbs of a 48-bit value (10_state.md R21, R23, 20_memory.md R42), the signed
reading of 32-bit patterns (00_scope.md R10), and the state that RESEEDI makes of its operand (42_seed_params.md
R112). -/

namespace Sys2Proof.Machine

/-- `v[15:0]`, word 0 of a 48-bit value (10_state.md R21). -/
def limb0 (v : Val48) : Limb := v.extractLsb' 0 16

/-- `v[31:16]`, word 1 of a 48-bit value (10_state.md R21). -/
def limb1 (v : Val48) : Limb := v.extractLsb' 16 16

/-- `v[47:32]`, word 2 of a 48-bit value (10_state.md R21). -/
def limb2 (v : Val48) : Limb := v.extractLsb' 32 16

/-- `{w2, w1, w0}` (00_scope.md R9). -/
def ofLimbs (w2 w1 w0 : Limb) : Val48 := w2 ++ w1 ++ w0

/-- `as_i32(b)`: a 32-bit pattern read as two's complement (00_scope.md R10). -/
def asI32 (b : BitVec 32) : Int := if b.toNat < 2 ^ 31 then (b.toNat : Int) else (b.toNat : Int) - 2 ^ 32

/-- `bits_i32(n)`: the 32-bit two's-complement pattern of an integer (00_scope.md R10). -/
def bitsI32 (n : Int) : BitVec 32 := BitVec.ofInt 32 n

/-- The state RESEEDI writes: `{v[31:16], v[15:0], SEEDI_LO}` (42_seed_params.md R112). -/
def seedState (v : Seed32) : Val48 := ofLimbs (v.extractLsb' 16 16) (v.extractLsb' 0 16) Config.SEEDI_LO

end Sys2Proof.Machine
end

