-- ==== Sys2Proof/Machine/Extract.lean ====
section
/-! DEFINITION. The output extraction multiplexer: the three outputs of a 48-bit state (41_generate.md R90 to R92),
and the value a binary64 pattern stands for. -/

namespace Sys2Proof.Machine

/-- `EXT_U31(S) = S[47:17]` (41_generate.md R90). -/
def extU31 (S : Val48) : BitVec 31 := S.extractLsb' 17 31

/-- `EXT_S32(S) = S[47:16]`, a 32-bit pattern (41_generate.md R91). -/
def extS32 (S : Val48) : BitVec 32 := S.extractLsb' 16 32

/-- The index of the most significant 1 bit of a nonzero value (41_generate.md R92). -/
def msbIndex (S : Val48) : Nat := Nat.log2 S.toNat

/-- `EXT_F64(S)`, the binary64 pattern of `S * 2^-48` (41_generate.md R92). -/
def extF64 (S : Val48) : BitVec 64 :=
  if S = 0 then 0
  else
    let p := msbIndex S
    let e := 1023 + p - 48
    let frac := S.toNat <<< (52 - p)
    (0#1 ++ BitVec.ofNat 11 e ++ BitVec.ofNat 52 frac : BitVec (1 + 11 + 52))

/-- The three outputs of the multiplexer (00_scope.md R1). -/
inductive OutputKind where
  /-- unsigned 31-bit -/
  | u31
  /-- signed 32-bit -/
  | s32
  /-- IEEE-754 binary64 -/
  | f64
  deriving DecidableEq, Repr

/-- The `res` field for an output: the integers are zero-extended, the double is its pattern (30_encoding.md R69). -/
def extract : OutputKind → Val48 → ResWord
  | .u31, S => (extU31 S).setWidth 64
  | .s32, S => (extS32 S).setWidth 64
  | .f64, S => extF64 S

/-- The value of a binary64 pattern, `none` for an infinity or a NaN: sign, 11-bit exponent biased by 1023, 52-bit
fraction with an implicit leading 1 for normal numbers (93_implementation_defined.md G3, log entry 8). -/
def f64Value (b : BitVec 64) : Option ℚ :=
  let sign : ℚ := if b.extractLsb' 63 1 = 0#1 then 1 else -1
  let e := (b.extractLsb' 52 11).toNat
  let frac := (b.extractLsb' 0 52).toNat
  if e = 2047 then none
  else if e = 0 then some (sign * (frac : ℚ) / 2 ^ 1074)
  else some (sign * ((2 ^ 52 + frac : Nat) : ℚ) * 2 ^ e / 2 ^ 1075)

end Sys2Proof.Machine
end

