-- ==== Sys2Proof/Machine/Flags.lean ====
section
/-! DEFINITION. The core has no status flags (10_state.md R29). The one per-command status is the `err` bit of the
response, the core's cause code (60_exceptions.md R122). -/

namespace Sys2Proof.Machine

/-- The causes a response can report (60_exceptions.md R122). -/
inductive Cause where
  /-- every legal command -/
  | none
  /-- reserved opcode, or nonzero `rsv` -/
  | illegalCommand
  deriving DecidableEq, Repr

/-- The `err` field that reports a cause (60_exceptions.md R122). -/
def Cause.err : Cause → BitVec 1
  | .none => 0#1
  | .illegalCommand => 1#1

end Sys2Proof.Machine
end

