-- ==== Sys2Proof/Machine/Mac.lean ====
section
/-! DEFINITION. The multiply-accumulate unit (40_iteration.md). `advance` is the recurrence, R80; `advanceSplit`
(R82) and `advanceLimbs` (R83) are the two decompositions the spec derives from it. The datapath is free (R84), so
the machine uses `advance`. -/

namespace Sys2Proof.Machine

/-- `ADVANCE(S, A, C) = (S * A + zext_48(C)) mod 2^48`, exact on natural numbers with one final reduction
(40_iteration.md R80, R85). -/
def advance (S A : Val48) (C : Limb) : Val48 := BitVec.ofNat 48 (S.toNat * A.toNat + C.toNat)

/-- The low 32 bits `lo = s0 | (s1<<16)` of the document's split (40_iteration.md R82). -/
def splitLo (S : Val48) : Nat := (limb0 S).toNat ||| ((limb1 S).toNat <<< 16)

/-- The §4.1 split (40_iteration.md R82). -/
def advanceSplit (S A : Val48) (C : Limb) : Nat :=
  ((splitLo S * A.toNat) % 2 ^ 48
    + ((((limb2 S).toNat * (limb0 A).toNat) % 2 ^ 16) <<< 32) % 2 ^ 48
    + C.toNat) % 2 ^ 48

/-- Column 0 of the limb schedule: `a0*x0 + zext(C)` (40_iteration.md R83). -/
def acc0 (S A : Val48) (C : Limb) : Nat := (limb0 A).toNat * (limb0 S).toNat + C.toNat

/-- Column 1: `(acc0 >> 16) + a0*x1 + a1*x0` (40_iteration.md R83). -/
def acc1 (S A : Val48) (C : Limb) : Nat :=
  (acc0 S A C >>> 16) + (limb0 A).toNat * (limb1 S).toNat + (limb1 A).toNat * (limb0 S).toNat

/-- Column 2: `(acc1 >> 16) + a0*x2 + a1*x1 + a2*x0` (40_iteration.md R83). -/
def acc2 (S A : Val48) (C : Limb) : Nat :=
  (acc1 S A C >>> 16) + (limb0 A).toNat * (limb2 S).toNat + (limb1 A).toNat * (limb1 S).toNat
    + (limb2 A).toNat * (limb0 S).toNat

/-- The limb schedule's result `{t2, t1, t0}` (40_iteration.md R83). -/
def advanceLimbs (S A : Val48) (C : Limb) : Val48 :=
  ofLimbs (BitVec.ofNat 16 (acc2 S A C)) (BitVec.ofNat 16 (acc1 S A C)) (BitVec.ofNat 16 (acc0 S A C))

end Sys2Proof.Machine
end

