-- ==== Sys2Proof/Machine/State.lean ====
section
/-! DEFINITION. The state of one LCG48 core and of its command port. The core's architectural state is exactly the
three registers of 10_state.md R20. The two lists are the port as the host sees it: what has been presented and not
yet accepted, and what has been delivered (log entries 1 and 2). -/

namespace Sys2Proof.Machine

/-- What a host does to the core, one event per transition (20_memory.md R53): it presents a command word, or it
resets the core between two commands (70_reset_and_hazards.md R140, R141). A command that overlaps a reset has no
event of its own (93_implementation_defined.md U8, log entry 7). -/
inductive HostEvent where
  | command (w : CmdWord)
  | reset
  deriving DecidableEq, Repr

/-- The state of the core and its port. -/
structure State where
  /-- The 48-bit state register, limbs `s2, s1, s0` (10_state.md R20, R21). -/
  S : Val48
  /-- The multiplier, limbs `a2, a1, a0` (10_state.md R20, R23). -/
  A : Val48
  /-- The addend (10_state.md R20, R24). -/
  C : Limb
  /-- The events presented and not yet accepted, in the order the port accepts them (20_memory.md R47, R48). The
  model's own field, the host's side of the port (log entry 1). -/
  inbox : List HostEvent
  /-- The responses delivered so far, oldest first (30_encoding.md R68). The model's own record of what left the
  core; no meaning reads it (log entry 2). -/
  outbox : List RspWord
  deriving DecidableEq, Repr

/-- Faults of the machine. There is none, so the type has no constructor: "No legal command can fail, fault, trap or
stall" (60_exceptions.md R120), and an illegal command answers a response and goes on (R121). Safe: nothing is left
out, since every command word has the effect the spec gives it. -/
inductive Fault where
  deriving DecidableEq, Repr

/-- Refusals of the model. -/
inductive Refusal where
  /-- An instruction without a meaning, raised by an arm of `exec`. No arm raises it: all nine commands have their
  meaning. Safe, since a run that meets it stops. -/
  | notModelled (mnemonic : String)
  deriving DecidableEq, Repr

/-- The machine right after reset (10_state.md R32): the three registers at the values the spec gives, nothing
presented and nothing delivered (log entries 1 and 2). -/
def State.reset : State where
  S := Config.S_RESET
  A := Config.A_DEF
  C := Config.C_DEF
  inbox := []
  outbox := []

end Sys2Proof.Machine
end

