-- ==== Sys2Proof/Machine/Ops.lean ====
section
/-! DEFINITION. The named operations over the registers and the port: whole-register writes (20_memory.md R45), the
response (30_encoding.md R68), the one exception (60_exceptions.md R121), reset (70_reset_and_hazards.md R140), and
accepting the next event (20_memory.md R47). -/

namespace Sys2Proof.Machine

/-- `S <- v`, all 48 bits (00_scope.md R11, 20_memory.md R45). -/
def State.setS (s : State) (v : Val48) : State := { s with S := v }

/-- `A <- a; C <- c`: the two parameters are written together (20_memory.md R45). -/
def State.setParams (s : State) (a : Val48) (c : Limb) : State := { s with A := a, C := c }

/-- Deliver one response word at the port. -/
def State.deliver (s : State) (r : RspWord) : State := { s with outbox := s.outbox ++ [r] }

/-- `RSP = {0[14:0], err, sout, res}` (30_encoding.md R68). -/
def Rsp.pack (err : BitVec 1) (sout : Val48) (res : ResWord) : RspWord := 0#15 ++ err ++ sout ++ res

/-- `res = RSP[63:0]` (30_encoding.md R68). -/
def Rsp.res (r : RspWord) : ResWord := r.extractLsb' 0 64

/-- `sout = RSP[111:64]` (30_encoding.md R68). -/
def Rsp.sout (r : RspWord) : Val48 := r.extractLsb' 64 48

/-- `err = RSP[112]` (30_encoding.md R68). -/
def Rsp.err (r : RspWord) : BitVec 1 := r.extractLsb' 112 1

/-- `RSP[127:113]` (30_encoding.md R68). -/
def Rsp.zero (r : RspWord) : BitVec 15 := r.extractLsb' 113 15

/-- `respond(err, res, sout)`: deliver the response word, exactly once per command (00_scope.md R11). -/
def respond (cause : Cause) (res : ResWord) (sout : Val48) (s : State) : State :=
  s.deliver (Rsp.pack cause.err sout res)

/-- `raise IllegalCommand()`, the core's only exception: `respond(1, 0, 0)`, no register written (60_exceptions.md
R121). There is no trap entry beyond it (R124) and nothing to return from (R125). -/
def raiseIllegalCommand (s : State) : State := respond .illegalCommand 0 0 s

/-- The reset event: every register at its reset value (70_reset_and_hazards.md R140). Responses already delivered
stay delivered, and events presented later are accepted after it (R141). -/
def performReset (s : State) : State :=
  (s.setS Config.S_RESET).setParams Config.A_DEF Config.C_DEF

/-- Accept the next event of the port, if there is one (20_memory.md R47). -/
def accept (s : State) : Option (HostEvent × State) :=
  match s.inbox with
  | [] => none
  | e :: rest => some (e, { s with inbox := rest })

/-- Present an event so that it is the next one accepted. -/
def State.present (s : State) (e : HostEvent) : State := { s with inbox := e :: s.inbox }

end Sys2Proof.Machine
end

