-- ==== Sys2Proof/Machine/Generate.lean ====
section
/-! DEFINITION. The six generate commands: the three outputs crossed with the two state sources (41_generate.md R95
to R100). All advance the chosen state first and extract from the advanced state (R93). -/

namespace Sys2Proof.Machine

/-- `S' = ADVANCE(S, A, C); S <- S'; respond(0, EXT(S'), 0)` (41_generate.md R95 to R97). -/
def generateInternal (k : OutputKind) (s : State) : State :=
  let S' := advance s.S s.A s.C
  respond .none (extract k S') 0 (s.setS S')

/-- `X' = ADVANCE(x, A, C); respond(0, EXT(X'), X')`, the register `S` neither read nor written (41_generate.md R98
to R101). -/
def generateExternal (k : OutputKind) (x : Val48) (s : State) : State :=
  let X' := advance x s.A s.C
  respond .none (extract k X') X' s

/-- `GENU.I` (41_generate.md R95). -/
def execGenuI (s : State) : Host.Outcome State Fault Refusal := .next (generateInternal .u31 s)

/-- `GENS.I` (41_generate.md R96). -/
def execGensI (s : State) : Host.Outcome State Fault Refusal := .next (generateInternal .s32 s)

/-- `GEND.I` (41_generate.md R97). -/
def execGendI (s : State) : Host.Outcome State Fault Refusal := .next (generateInternal .f64 s)

/-- `GENU.X` (41_generate.md R98). -/
def execGenuX (x : Val48) (s : State) : Host.Outcome State Fault Refusal := .next (generateExternal .u31 x s)

/-- `GENS.X` (41_generate.md R99). -/
def execGensX (x : Val48) (s : State) : Host.Outcome State Fault Refusal := .next (generateExternal .s32 x s)

/-- `GEND.X` (41_generate.md R100). -/
def execGendX (x : Val48) (s : State) : Host.Outcome State Fault Refusal := .next (generateExternal .f64 x s)

end Sys2Proof.Machine
end

