-- ==== Sys2Proof/Machine/Seed.lean ====
section
/-! DEFINITION. The three seed and parameter commands (42_seed_params.md R110 to R113). None advances the state. -/

namespace Sys2Proof.Machine

/-- `SETP`: `S <- x; A <- y; C <- z; respond(0, 0, 0)` (42_seed_params.md R110). -/
def execSetp (x y : Val48) (z : Limb) (s : State) : Host.Outcome State Fault Refusal :=
  .next (respond .none 0 0 ((s.setS x).setParams y z))

/-- `RESEED`: the old `S` is captured before any write and returned in `sout`; the default parameters are restored
(42_seed_params.md R111). -/
def execReseed (x : Val48) (s : State) : Host.Outcome State Fault Refusal :=
  let old := s.S
  .next (respond .none 0 old ((s.setS x).setParams Config.A_DEF Config.C_DEF))

/-- RESEEDI for either value of the switch `P_SEEDI_RESETS_PARAMS` (42_seed_params.md R112, 92_eei_decisions.md D18). -/
def reseediWith (resetsParams : Bool) (v : Seed32) (s : State) : State :=
  let s1 := s.setS (seedState v)
  let s2 := if resetsParams then s1.setParams Config.A_DEF Config.C_DEF else s1
  respond .none 0 0 s2

/-- `RESEEDI` of this hardware (42_seed_params.md R112). -/
def execReseedi (v : Seed32) (s : State) : Host.Outcome State Fault Refusal :=
  .next (reseediWith Config.P_SEEDI_RESETS_PARAMS v s)

end Sys2Proof.Machine
end

