-- ==== Sys2Proof/Machine/Dispatch.lean ====
section
/-! DEFINITION. One arm per command of 30_encoding.md R63, each one call of its meaning. -/

namespace Sys2Proof.Machine

def exec (i : Instr) (s : State) : Host.Outcome State Fault Refusal :=
  match i with
  | .genuI => Sys2Proof.Machine.execGenuI s
  | .gensI => Sys2Proof.Machine.execGensI s
  | .gendI => Sys2Proof.Machine.execGendI s
  | .genuX x => Sys2Proof.Machine.execGenuX x s
  | .gensX x => Sys2Proof.Machine.execGensX x s
  | .gendX x => Sys2Proof.Machine.execGendX x s
  | .setp x y z => Sys2Proof.Machine.execSetp x y z s
  | .reseed x => Sys2Proof.Machine.execReseed x s
  | .reseedi v => Sys2Proof.Machine.execReseedi v s

end Sys2Proof.Machine
end

