-- ==== Sys2Proof/Machine/Step.lean ====
section
/-! DEFINITION. One transition of the core: accept the next event of the port and give it its whole effect
(20_memory.md R46, R47). -/

namespace Sys2Proof.Machine

/-- One transition. With nothing presented the core holds its registers (60_exceptions.md R132); a reset is a
transition of its own (70_reset_and_hazards.md R140); a command word is decoded (30_encoding.md R65) and either
executed or answered with `IllegalCommand` (60_exceptions.md R121). -/
def step (s : State) : Host.Outcome State Fault Refusal :=
  match accept s with
  | none => .next s
  | some (.reset, s1) => .next (performReset s1)
  | some (.command w, s1) =>
    match decode w with
    | .command i => exec i s1
    | .illegal _ => .next (raiseIllegalCommand s1)

/-- The word presented at the command port, ahead of whatever else is presented, so that the next step accepts it
(log entry 1). -/
def State.withFetchWord (s : State) (nbits w : Nat) : State := s.present (.command (Cmd.ofTable nbits w))

end Sys2Proof.Machine
end

