-- ==== Sys2Proof/Machine/Assembler.lean ====
section
/-! DEFINITION. The assembler syntax of 30_encoding.md R70: a line of text is read into a mnemonic with numbers, the
numbers are checked against their fields, and the line becomes one command word. There are no pseudo-instructions
(R71). Text is a list of characters. -/

namespace Sys2Proof.Machine

/-- The 32-bit pattern of `<seed32>` (30_encoding.md R70, 00_scope.md R10). -/
def SeedLiteral.pattern : SeedLiteral → Seed32
  | .dec n => bitsI32 n
  | .hex v => BitVec.ofNat 32 v

/-- The command of a line whose numbers fit their fields (30_encoding.md R70). -/
def lineInstr : AsmLine → Instr
  | .genuI => .genuI
  | .gensI => .gensI
  | .gendI => .gendI
  | .genuX x => .genuX (BitVec.ofNat 48 x)
  | .gensX x => .gensX (BitVec.ofNat 48 x)
  | .gendX x => .gendX (BitVec.ofNat 48 x)
  | .setp x y z => .setp (BitVec.ofNat 48 x) (BitVec.ofNat 48 y) (BitVec.ofNat 16 z)
  | .reseed x => .reseed (BitVec.ofNat 48 x)
  | .reseedi v => .reseedi (SeedLiteral.pattern v)

/-- Each line assembles to one command word, or is an assembly error (30_encoding.md R70). -/
def assembleLine (l : AsmLine) : Option CmdWord :=
  if l.wellFormed then some (encode (lineInstr l)) else none

def isBlank (c : Char) : Bool := c == ' ' || c == '\t'

def trim (cs : List Char) : List Char :=
  (((cs.dropWhile isBlank).reverse).dropWhile isBlank).reverse

/-- The pieces of a text between occurrences of `sep`. -/
def splitAt (sep : Char) : List Char → List (List Char)
  | [] => [[]]
  | c :: cs =>
    match splitAt sep cs with
    | [] => [[c]]
    | piece :: rest => if c == sep then [] :: piece :: rest else (c :: piece) :: rest

def hexDigit (c : Char) : Option Nat :=
  let n := c.toNat
  if 48 ≤ n ∧ n ≤ 57 then some (n - 48)
  else if 65 ≤ n ∧ n ≤ 70 then some (n - 55)
  else if 97 ≤ n ∧ n ≤ 102 then some (n - 87)
  else none

def decDigit (c : Char) : Option Nat :=
  let n := c.toNat
  if 48 ≤ n ∧ n ≤ 57 then some (n - 48) else none

/-- The number of a nonempty digit text in a base. -/
def digits (base : Nat) (digit : Char → Option Nat) (cs : List Char) : Option Nat :=
  if cs.isEmpty then none
  else cs.foldl (fun acc c => acc.bind fun n => (digit c).map fun d => n * base + d) (some 0)

/-- A hex literal `0x...`; `_` separates limbs for readability only (00_scope.md R9). -/
def parseHex : List Char → Option Nat
  | '0' :: 'x' :: cs => digits 16 hexDigit (cs.filter (· != '_'))
  | _ => none

def parseDec (cs : List Char) : Option Nat := digits 10 decDigit cs

/-- `<addend16>`: R70 does not say how it is written; hex, as in the spec's programs, or decimal (log entry 9). -/
def parseAddend (cs : List Char) : Option Nat := (parseHex cs).orElse fun _ => parseDec cs

/-- `<seed32>`: a decimal integer or a hex value (30_encoding.md R70). -/
def parseSeed (cs : List Char) : Option SeedLiteral :=
  match parseHex cs with
  | some v => some (.hex v)
  | none =>
    match cs with
    | '-' :: ds => (parseDec ds).map fun n => .dec (-(n : Int))
    | _ => (parseDec cs).map fun n => .dec (n : Int)

/-- A mnemonic with its operand texts (30_encoding.md R70). -/
def parseOperands (mnemonic : List Char) (operands : List (List Char)) : Option AsmLine :=
  match mnemonic, operands with
  | ['G', 'E', 'N', 'U', '.', 'I'], [] => some .genuI
  | ['G', 'E', 'N', 'S', '.', 'I'], [] => some .gensI
  | ['G', 'E', 'N', 'D', '.', 'I'], [] => some .gendI
  | ['G', 'E', 'N', 'U', '.', 'X'], [a] => (parseHex a).map .genuX
  | ['G', 'E', 'N', 'S', '.', 'X'], [a] => (parseHex a).map .gensX
  | ['G', 'E', 'N', 'D', '.', 'X'], [a] => (parseHex a).map .gendX
  | ['S', 'E', 'T', 'P'], [a, b, c] => do
    let x ← parseHex a
    let y ← parseHex b
    let z ← parseAddend c
    return .setp x y z
  | ['R', 'E', 'S', 'E', 'E', 'D'], [a] => (parseHex a).map .reseed
  | ['R', 'E', 'S', 'E', 'E', 'D', 'I'], [a] => (parseSeed a).map .reseedi
  | _, _ => none

/-- A text line: a mnemonic, then operands separated by commas, blanks around each ignored (log entry 9). -/
def parseLine (cs : List Char) : Option AsmLine :=
  let body := trim cs
  let mnemonic := body.takeWhile (fun c => !isBlank c)
  let rest := trim (body.dropWhile (fun c => !isBlank c))
  parseOperands mnemonic (if rest.isEmpty then [] else (splitAt ',' rest).map trim)

/-- "Each text line assembles to one command word" (30_encoding.md R70). -/
def assembleText (cs : List Char) : Option CmdWord := (parseLine cs).bind assembleLine

end Sys2Proof.Machine
end

