-- ==== Sys2Proof/Machine/Platform.lean ====
section
/-! DEFINITION. What stands around the core: several hosts that share its port (20_memory.md R48), the host's duties
towards one core (R41, R53), and several core instances (60_exceptions.md R130). Nothing here is state of a core. -/

namespace Sys2Proof.Machine

/-- The words one host presents, among all words in acceptance order, each tagged with the host that presents it. -/
def wordsOf (host : Nat) (order : List (Nat × CmdWord)) : List CmdWord :=
  (order.filter fun p => p.1 == host).map (·.2)

/-- `order` is one interleaving of the hosts' command streams: every word comes from a host, and each host's words
come in the order it issues them. The core fixes no more than that (20_memory.md R48, 60_exceptions.md R130, log
entry 3). -/
abbrev IsInterleaving (streams : List (List CmdWord)) (order : List (Nat × CmdWord)) : Prop :=
  (∀ p ∈ order, p.1 < streams.length) ∧ ∀ host < streams.length, wordsOf host order = streams.getD host []

/-- The core with exactly these words presented, in acceptance order. -/
def State.offered (s : State) (ws : List CmdWord) : State := { s with inbox := ws.map .command }

/-- The responses delivered between two states of a run. -/
def responsesSince (s t : State) : List RspWord := t.outbox.drop s.outbox.length

/-- The responses that answer one host's commands: one response per accepted command, in acceptance order
(20_memory.md R47, R53). -/
def responsesTo (host : Nat) (order : List (Nat × CmdWord)) (rs : List RspWord) : List RspWord :=
  ((order.zip rs).filter fun p => p.1.1 == host).map (·.2)

/-- The host presents one word, the core makes its transition, and the host reads the response (20_memory.md R53). -/
def call (w : CmdWord) (s : State) : Option (RspWord × State) :=
  match step (s.present (.command w)) with
  | .next t => t.outbox.getLast?.map fun r => (r, t)
  | .fault _ => none
  | .refused _ => none

/-- The host's write-back: its buffer takes the new state from `sout` (20_memory.md R41). -/
def writeBack (r : RspWord) : Val48 := Rsp.sout r

/-- The internal generate command of an output (30_encoding.md R63). -/
def internalCommand : OutputKind → Instr
  | .u31 => .genuI
  | .s32 => .gensI
  | .f64 => .gendI

/-- The external generate command of an output (30_encoding.md R63). -/
def externalCommand : OutputKind → Val48 → Instr
  | .u31, x => .genuX x
  | .s32, x => .gensX x
  | .f64, x => .gendX x

/-- A host draws one output per entry of `ks` from the internal state. -/
def internalStream : List OutputKind → State → Option (List ResWord × State)
  | [], s => some ([], s)
  | k :: ks, s => do
    let (r, t) ← call (encode (internalCommand k)) s
    let (rs, u) ← internalStream ks t
    return (Rsp.res r :: rs, u)

/-- A host draws one output per entry of `ks` from its buffer, writing `sout` back each time (20_memory.md R41). -/
def externalStream : List OutputKind → Val48 → State → Option (List ResWord × Val48 × State)
  | [], buffer, s => some ([], buffer, s)
  | k :: ks, buffer, s => do
    let (r, t) ← call (encode (externalCommand k buffer)) s
    let (rs, buffer', u) ← externalStream ks (writeBack r) t
    return (Rsp.res r :: rs, buffer', u)

/-- One instance of several makes a transition (60_exceptions.md R130). -/
def stepInstance (k : Nat) (cores : List State) : Host.Outcome (List State) Fault Refusal :=
  match cores[k]? with
  | none => .next cores
  | some s =>
    match step s with
    | .next t => .next (cores.set k t)
    | .fault r => .fault r
    | .refused r => .refused r

end Sys2Proof.Machine
end

