-- ==== Sys2Proof/Safety.lean ====
section
/-! DEFINITION. What counts as a safe run of the core, in the terms the statements use. -/

namespace Sys2Proof.Machine

/-- `n` transitions of the machine the host reads, one after another (20_memory.md R47). -/
def run (n : Nat) (s : State) : Host.Outcome State Fault Refusal := Host.Core.run Sys2Proof.core n s

/-- The form of every response word (30_encoding.md R68, R69, 41_generate.md R92, 60_exceptions.md R121): the top 15
bits are zero; with `err = 1` the other fields are zero; and `res` is an integer result below `2^32`, or a double
between `2^-48` and `1 - 2^-48`. -/
def responseOk (r : RspWord) : Bool :=
  Rsp.zero r == 0
    && (Rsp.err r == 0 || (Rsp.res r == 0 && Rsp.sout r == 0))
    && (decide ((Rsp.res r).toNat < 2 ^ 32)
        || (decide (0x3CF0000000000000 ≤ (Rsp.res r).toNat) && decide ((Rsp.res r).toNat ≤ 0x3FEFFFFFFFFFFFE0)))

/-- Every response delivered has the form the spec gives a response. -/
abbrev State.ResponsesOk (s : State) : Prop := s.outbox.all responseOk = true

/-- The command word with the given fields, in numbers: `x` from bit 80, `y` from bit 32, `z` from bit 16, `rsv` from
bit 4 and `op` from bit 0 (30_encoding.md R61). Written apart from the decoder and the encoder. -/
def fieldsWord (x y : Val48) (z : Limb) (rsv : BitVec 12) (op : BitVec 4) : CmdWord :=
  BitVec.ofNat 128 (x.toNat * 2 ^ 80 + y.toNat * 2 ^ 32 + z.toNat * 2 ^ 16 + rsv.toNat * 2 ^ 4 + op.toNat)

/-- Between `s` and `t` exactly one response was delivered, and it is the word `err*2^112 + sout*2^64 + res`
(30_encoding.md R68). -/
def Answers (s t : State) (err sout res : Nat) : Prop :=
  ∃ r : RspWord, t.outbox = s.outbox ++ [r] ∧ r.toNat = err * 2 ^ 112 + sout * 2 ^ 64 + res

/-- Two states hold the same registers (10_state.md R20). -/
def SameRegisters (s t : State) : Prop := s.S = t.S ∧ s.A = t.A ∧ s.C = t.C

/-- The words among the events presented, in acceptance order. -/
def commandWords : List HostEvent → List CmdWord
  | [] => []
  | .command w :: es => w :: commandWords es
  | .reset :: es => commandWords es

/-- Every word presented is legal: the premise 'no illegal command' (93_implementation_defined.md U5). -/
abbrev State.OnlyLegal (s : State) : Prop := (commandWords s.inbox).all legalWord = true

/-- No response reports `IllegalCommand` (60_exceptions.md R122). -/
abbrev State.NoErrors (s : State) : Prop := (s.outbox.all fun r => Rsp.err r == 0) = true

/-- A parameter pair that a run starting with `(a, c)` may show after the given words: the pair it started with, the
defaults, or the pair of one SETP among the words. A torn pair, a new `A` with an old `C`, is none of these
(20_memory.md R46, R48). -/
def WholePair (a : Val48) (c : Limb) (ws : List CmdWord) (a' : Val48) (c' : Limb) : Prop :=
  (a' = a ∧ c' = c) ∨ (a' = Config.A_DEF ∧ c' = Config.C_DEF) ∨
    ∃ w ∈ ws, w.toNat % 2 ^ 16 = 8 ∧ a' = Cmd.y w ∧ c' = Cmd.z w

end Sys2Proof.Machine
end

