-- ==== Sys2Proof/Certificates/Slice0/Obligations.lean ====
section
/-! DEFINITION. The statements about the model, for the provers. Each docstring names the rule of spec/ it formalises. -/

open Sys2Proof Sys2Proof.Machine

/-! ## Reset and the idle core -/

/-- 10_state.md R32: the reset values of the three registers, limb by limb for `S`. -/
def Obligations.ResetRegisterValues : Prop :=
  State.reset.S = 0x1234ABCD330E#48 ∧ limb2 State.reset.S = 0x1234#16 ∧ limb1 State.reset.S = 0xABCD#16 ∧
    limb0 State.reset.S = 0x330E#16 ∧ State.reset.A = 0x0005DEECE66D#48 ∧ State.reset.C = 0x000B#16

/-- 70_reset_and_hazards.md R140: the reset event, a transition of its own, sets every register to its reset value.
The record `outbox` of delivered responses is the model's own field, and that a reset event leaves it as it is, is log
entry 2 (DESIGN CHOICE), after R141: a response delivered before a reset stays delivered. -/
def Obligations.ResetEventSetsEveryRegister : Prop :=
  ∀ (s : State) (rest : List HostEvent),
    step { s with inbox := .reset :: rest } =
      .next { S := 0x1234ABCD330E#48, A := 0x0005DEECE66D#48, C := 0x000B#16, inbox := rest, outbox := s.outbox }

/-- 70_reset_and_hazards.md R142: the first `GENU.I` after reset returns 851401618 and leaves
`S = 0x657E_B725_5101`. -/
def Obligations.FirstOutputAfterReset : Prop :=
  ∃ t : State, step (State.reset.present (.command (encode .genuI))) = .next t ∧
    t.S = 0x657EB7255101#48 ∧ Answers State.reset t 0 0 851401618

/-- 60_exceptions.md R132: with nothing presented the core holds everything. -/
def Obligations.IdleCoreHolds : Prop :=
  ∀ s : State, step { s with inbox := [] } = .next { s with inbox := [] }

/-- 70_reset_and_hazards.md R141: events accepted before a reset take their full effect and deliver their responses;
events accepted after it see the reset values; nothing of the registers crosses the reset. Reading `v.outbox` as what
the run after the reset delivers rests on log entry 2 (DESIGN CHOICE): the model's own record `outbox` is empty at
`State.reset`, and a reset event keeps it. -/
def Obligations.ResetCutsTheRun : Prop :=
  ∀ (s : State) (before after : List HostEvent), ∃ (t v : State),
    run before.length { s with inbox := before } = .next t ∧
    run after.length { State.reset with inbox := after } = .next v ∧
    run (before.length + (1 + after.length)) { s with inbox := before ++ .reset :: after } =
      .next { v with outbox := t.outbox ++ v.outbox }

/-! ## Values: limbs, the recurrence and its two decompositions -/

/-- 10_state.md R21: the three words of a 48-bit value, and the value they make. -/
def Obligations.LimbsNameTheBitsOfAValue : Prop :=
  ∀ v : Val48,
    (limb0 v).toNat = v.toNat % 2 ^ 16 ∧ (limb1 v).toNat = v.toNat / 2 ^ 16 % 2 ^ 16 ∧
    (limb2 v).toNat = v.toNat / 2 ^ 32 ∧
    v.toNat = ((limb0 v).toNat ||| ((limb1 v).toNat <<< 16)) ||| ((limb2 v).toNat <<< 32) ∧
    ofLimbs (limb2 v) (limb1 v) (limb0 v) = v

/-- 40_iteration.md R80 and R85: the recurrence in exact arithmetic with one final reduction, the addend
zero-extended and added at bit 0. -/
def Obligations.AdvanceIsTheRecurrence : Prop :=
  ∀ (S A : Val48) (C : Limb),
    (advance S A C).toNat = (S.toNat * A.toNat + C.toNat) % 2 ^ 48 ∧
    advance S A C = S * A + C.setWidth 48

/-- 40_iteration.md R81: the exact product has up to 96 bits and only its low 48 matter, the carry out of bit 47 is
dropped, and the corner cases the rule lists. -/
def Obligations.AdvanceCornerCases : Prop :=
  (∀ S A : Val48, S.toNat * A.toNat < 2 ^ 96) ∧
  (∀ (S A : Val48) (C : Limb), (advance S A C).toNat = ((S.toNat * A.toNat) % 2 ^ 48 + C.toNat) % 2 ^ 48) ∧
  (∀ (S : Val48) (C : Limb), (advance S 0 C).toNat = C.toNat) ∧
  (∀ S : Val48, advance S 1 0 = S) ∧
  (∀ (S : Val48) (C : Limb), (advance S 0xFFFFFFFFFFFF#48 C).toNat = (2 ^ 48 - S.toNat + C.toNat) % 2 ^ 48) ∧
  (∀ (A : Val48) (C : Limb), (advance 0 A C).toNat = C.toNat) ∧
  advance 0xFFFFFFFFFFFF#48 0xFFFFFFFFFFFF#48 0 = 1 ∧
  advance 0xFFFFFFFFFFFF#48 1 1 = 0

/-- 40_iteration.md R82: the document's split into a low 32-bit and a high 16-bit part equals the recurrence for
every input. The split is written out here in numbers, and so is its `lo`. -/
def Obligations.SplitComputesAdvance : Prop :=
  ∀ (S A : Val48) (C : Limb),
    advanceSplit S A C = (advance S A C).toNat ∧
    advanceSplit S A C =
      (((S.toNat % 2 ^ 32) * A.toNat) % 2 ^ 48
        + (((S.toNat / 2 ^ 32) * (A.toNat % 2 ^ 16)) % 2 ^ 16 * 2 ^ 32) % 2 ^ 48 + C.toNat) % 2 ^ 48

/-- 40_iteration.md R83: the 16-bit limb schedule equals the recurrence for every input, and its accumulators stay
within the maxima the rule states, which the all-ones input reaches. -/
def Obligations.LimbScheduleComputesAdvance : Prop :=
  (∀ (S A : Val48) (C : Limb),
    advanceLimbs S A C = advance S A C ∧
    acc0 S A C ≤ 0xFFFF0000 ∧ acc1 S A C ≤ 0x1FFFD0001 ∧ acc2 S A C ≤ 0x2FFFC0000) ∧
  acc0 0xFFFFFFFFFFFF#48 0xFFFFFFFFFFFF#48 0xFFFF#16 = 0xFFFF0000 ∧
  acc1 0xFFFFFFFFFFFF#48 0xFFFFFFFFFFFF#48 0xFFFF#16 = 0x1FFFD0001 ∧
  acc2 0xFFFFFFFFFFFF#48 0xFFFFFFFFFFFF#48 0xFFFF#16 = 0x2FFFC0000

/-! ## Outputs -/

/-- 41_generate.md R90: the unsigned output by the document's formula over the words and as `S[47:17]`, its range,
and that state bits 16:0 do not affect it. -/
def Obligations.UnsignedOutputIsTheTopBits : Prop :=
  ∀ S : Val48,
    (extU31 S).toNat = ((limb2 S).toNat <<< 15) ||| ((limb1 S).toNat >>> 1) ∧
    (extU31 S).toNat = S.toNat / 2 ^ 17 ∧ (extU31 S).toNat ≤ 2 ^ 31 - 1 ∧
    ∀ low : BitVec 17, extU31 (S.extractLsb' 17 31 ++ low) = extU31 S

/-- 41_generate.md R91: the signed output by the document's formula over the words and as `S[47:16]`, its
two's-complement value and range, the sign at bit 47, and that `s0` does not affect it. -/
def Obligations.SignedOutputIsTheTopBits : Prop :=
  ∀ S : Val48,
    (extS32 S).toNat = ((limb2 S).toNat <<< 16) ||| (limb1 S).toNat ∧
    (extS32 S).toNat = S.toNat / 2 ^ 16 ∧
    asI32 (extS32 S) = (extS32 S).toInt ∧
    -2 ^ 31 ≤ asI32 (extS32 S) ∧ asI32 (extS32 S) ≤ 2 ^ 31 - 1 ∧
    (asI32 (extS32 S) < 0 ↔ S.getLsbD 47 = true) ∧
    bitsI32 (asI32 (extS32 S)) = extS32 S ∧
    (extract .s32 S).toNat = (extS32 S).toNat ∧
    ∀ s0 : Limb, extS32 (ofLimbs (limb2 S) (limb1 S) s0) = extS32 S

/-- 41_generate.md R92: the double output is the exact value `S * 2^-48`; its pattern; `+0.0` for zero; for a nonzero
state the sign bit 0 and an exponent field from 975 to 1022, so it is normal and no infinity or NaN; the largest
result, below 1.0; and injectivity. The clause on the value reads the pattern through `f64Value`, by the binary64 layout
of log entry 8 (PRESUMED; 93_implementation_defined.md G3, general knowledge); the clauses on the pattern do not. -/
def Obligations.DoubleOutputIsExact : Prop :=
  extF64 0 = 0 ∧
  (∀ S : Val48, f64Value (extF64 S) = some ((S.toNat : ℚ) / 2 ^ 48)) ∧
  (∀ (S : Val48) (p : Nat), 2 ^ p ≤ S.toNat → S.toNat < 2 ^ (p + 1) →
    p ≤ 47 ∧ (extF64 S).toNat = (1023 + p - 48) * 2 ^ 52 + (S.toNat * 2 ^ (52 - p)) % 2 ^ 52 ∧
    ((extF64 S).extractLsb' 63 1) = 0 ∧
    ((extF64 S).extractLsb' 52 11).toNat = 1023 + p - 48 ∧ 975 ≤ 1023 + p - 48 ∧ 1023 + p - 48 ≤ 1022) ∧
  (∀ S : Val48, (extF64 S).toNat ≤ 0x3FEFFFFFFFFFFFE0) ∧
  extF64 0xFFFFFFFFFFFF#48 = 0x3FEFFFFFFFFFFFE0#64 ∧
  Function.Injective extF64

/-- 41_generate.md R94: the three outputs of one state agree. The two floor clauses read the double through `f64Value`,
by the binary64 layout of log entry 8 (PRESUMED; 93_implementation_defined.md G3, general knowledge). -/
def Obligations.OutputsOfOneStateAgree : Prop :=
  ∀ S : Val48, (extU31 S).toNat = (extS32 S).toNat >>> 1 ∧
    ∃ d : ℚ, f64Value (extF64 S) = some d ∧
      ((extS32 S).toNat : ℤ) = ⌊d * 2 ^ 32⌋ ∧ ((extU31 S).toNat : ℤ) = ⌊d * 2 ^ 31⌋

/-! ## Encoding and decoding -/

/-- 30_encoding.md R61, R63, R70: decoding the word the encoder writes gives the command back, for every command and
every operand value. -/
def Obligations.DecodeOfEncode : Prop := ∀ i : Instr, decode (encode i) = .command i

/-- 30_encoding.md R61, R64, R70: encoding what a legal word decodes to gives that word with the operand fields its
command does not read set to zero. -/
def Obligations.EncodeOfDecodeClearsUnusedFields : Prop :=
  ∀ (x y : Val48) (z : Limb) (op : BitVec 4) (i : Instr),
    decode (fieldsWord x y z 0 op) = .command i →
    encode i =
      if op.toNat = 8 then fieldsWord x y z 0 op
      else if op.toNat ∈ [4, 5, 6, 9] then fieldsWord x 0 0 0 op
      else if op.toNat = 10 then fieldsWord (BitVec.ofNat 48 (x.toNat % 2 ^ 32)) 0 0 0 op
      else fieldsWord 0 0 0 0 op

/-- 30_encoding.md R65, R66, R67: a word, given by its fields, decodes to a command exactly if `rsv` is zero and `op`
is one of the nine legal opcodes; every word is given by its fields; and the table's match values say the same. -/
def Obligations.DecodingIsTotal : Prop :=
  (∀ w : CmdWord, fieldsWord (Cmd.x w) (Cmd.y w) (Cmd.z w) (Cmd.rsv w) (Cmd.op w) = w) ∧
  ∀ (x y : Val48) (z : Limb) (rsv : BitVec 12) (op : BitVec 4),
    ((∃ i, decode (fieldsWord x y z rsv op) = .command i) ↔
      rsv = 0 ∧ op.toNat ∈ [0x0, 0x1, 0x2, 0x4, 0x5, 0x6, 0x8, 0x9, 0xA]) ∧
    (legalWord (fieldsWord x y z rsv op) = true ↔
      rsv = 0 ∧ op.toNat ∈ [0x0, 0x1, 0x2, 0x4, 0x5, 0x6, 0x8, 0x9, 0xA])

/-- 30_encoding.md R63: among the words with `rsv = 0` and `op[3] = 0`, `op[1:0]` selects the output (3 is reserved)
and `op[2]` selects external or internal state. -/
def Obligations.GenerateOpcodesSelectByBits : Prop :=
  ∀ (x y : Val48) (z : Limb) (external : Bool) (k : OutputKind),
    decode (fieldsWord x y z 0
      (BitVec.ofNat 4 ((if external then 4 else 0) + (match k with | .u31 => 0 | .s32 => 1 | .f64 => 2))))
      = .command (if external then externalCommand k x else internalCommand k)

/-- 95_test_vectors.md section 2.3 and 30_encoding.md R72: words of every family written out from the encoding. -/
def Obligations.WrittenOutWordsDecode : Prop :=
  decode 0x00000000000000000000000000000000#128 = .command .genuI ∧
  decode 0x00000000000000000000000000000002#128 = .command .gendI ∧
  decode 0xFFFFFFFFFFFF00000000000000000005#128 = .command (.gensX 0xFFFFFFFFFFFF#48) ∧
  decode 0x00010002000300000000000200010008#128 =
    .command (.setp 0x000100020003#48 0x000000000002#48 0x0001#16) ∧
  decode 0x1234ABCD330E00000000000000000009#128 = .command (.reseed 0x1234ABCD330E#48) ∧
  decode 0xFFFF000000010000000000000000000A#128 = .command (.reseedi 0x00000001#32) ∧
  decode 0x00000000000000000000000000000003#128 = .illegal (.reservedOpcode 3) ∧
  decode 0x00000000000100000000000100010018#128 = .illegal (.reservedBits 1)

/-- 30_encoding.md R64: two words that differ only in operand fields their command does not read have the same
effect, on the registers and on the response. -/
def Obligations.UnusedFieldsHaveNoEffect : Prop :=
  ∀ (s : State) (x y x' y' : Val48) (z z' : Limb) (rsv : BitVec 12) (op : BitVec 4),
    (op.toNat ∈ [4, 5, 6, 8, 9] → x = x') → (op.toNat = 8 → y = y' ∧ z = z') →
    (op.toNat = 10 → x.toNat % 2 ^ 32 = x'.toNat % 2 ^ 32) →
    step (s.present (.command (fieldsWord x y z rsv op))) = step (s.present (.command (fieldsWord x' y' z' rsv op)))

/-- 30_encoding.md R70: each line assembles to the word with its operands in their fields and zero elsewhere, or is an
assembly error if a value is too wide for its field. -/
def Obligations.AssemblerPlacesOperandsOrRefuses : Prop :=
  assembleLine .genuI = some 0#128 ∧ assembleLine .gensI = some 1#128 ∧ assembleLine .gendI = some 2#128 ∧
  ∀ (x y z : Nat) (n : Int),
    assembleLine (.genuX x) = (if x < 2 ^ 48 then some (BitVec.ofNat 128 (x * 2 ^ 80 + 4)) else none) ∧
    assembleLine (.gensX x) = (if x < 2 ^ 48 then some (BitVec.ofNat 128 (x * 2 ^ 80 + 5)) else none) ∧
    assembleLine (.gendX x) = (if x < 2 ^ 48 then some (BitVec.ofNat 128 (x * 2 ^ 80 + 6)) else none) ∧
    assembleLine (.setp x y z) =
      (if x < 2 ^ 48 ∧ y < 2 ^ 48 ∧ z < 2 ^ 16
        then some (BitVec.ofNat 128 (x * 2 ^ 80 + y * 2 ^ 32 + z * 2 ^ 16 + 8)) else none) ∧
    assembleLine (.reseed x) = (if x < 2 ^ 48 then some (BitVec.ofNat 128 (x * 2 ^ 80 + 9)) else none) ∧
    assembleLine (.reseedi (.hex x)) = (if x < 2 ^ 32 then some (BitVec.ofNat 128 (x * 2 ^ 80 + 10)) else none) ∧
    assembleLine (.reseedi (.dec n)) =
      (if -2 ^ 31 ≤ n ∧ n ≤ 2 ^ 31 - 1
        then some (BitVec.ofNat 128 ((n % 2 ^ 32).toNat * 2 ^ 80 + 10)) else none)

/-- 30_encoding.md R72: the rule's two lines assemble, as text, to the words it gives. -/
def Obligations.EncodingExampleAssembles : Prop :=
  assembleText
    ['S', 'E', 'T', 'P', ' ', '0', 'x', '0', '0', '0', '1', '0', '0', '0', '2', '0', '0', '0', '3', ',', ' ',
     '0', 'x', '0', '0', '0', '0', '0', '0', '0', '0', '0', '0', '0', '2', ',', ' ', '0', 'x', '0', '0', '0', '1']
    = some 0x00010002000300000000000200010008#128 ∧
  Cmd.x 0x00010002000300000000000200010008#128 = 0x000100020003#48 ∧
  Cmd.y 0x00010002000300000000000200010008#128 = 0x000000000002#48 ∧
  Cmd.z 0x00010002000300000000000200010008#128 = 0x0001#16 ∧
  Cmd.rsv 0x00010002000300000000000200010008#128 = 0x000#12 ∧
  Cmd.op 0x00010002000300000000000200010008#128 = 0x8#4 ∧
  assembleText ['G', 'E', 'N', 'U', '.', 'I'] = some 0#128

/-! ## The nine commands: encoding, effect, response and frame -/

/-- 41_generate.md R95, `GENU.I`: encoding; the advance; the 31-bit output; everything else as before. -/
def Obligations.GenuIAdvancesAndAnswers : Prop :=
  (∀ (x y : Val48) (z : Limb), decode (fieldsWord x y z 0 0x0) = .command .genuI) ∧
  ∀ s : State, ∃ t : State, exec .genuI s = .next t ∧
    t.S.toNat = (s.S.toNat * s.A.toNat + s.C.toNat) % 2 ^ 48 ∧
    t.A = s.A ∧ t.C = s.C ∧ t.inbox = s.inbox ∧ Answers s t 0 0 (t.S.toNat / 2 ^ 17)

/-- 41_generate.md R96, `GENS.I`: encoding; the advance; the 32-bit pattern; everything else as before. -/
def Obligations.GensIAdvancesAndAnswers : Prop :=
  (∀ (x y : Val48) (z : Limb), decode (fieldsWord x y z 0 0x1) = .command .gensI) ∧
  ∀ s : State, ∃ t : State, exec .gensI s = .next t ∧
    t.S.toNat = (s.S.toNat * s.A.toNat + s.C.toNat) % 2 ^ 48 ∧
    t.A = s.A ∧ t.C = s.C ∧ t.inbox = s.inbox ∧ Answers s t 0 0 (t.S.toNat / 2 ^ 16)

/-- 41_generate.md R97, `GEND.I`: encoding; the advance; a double whose value is the new state times `2^-48`;
everything else as before. The clause on the value is R92's, and it reads the pattern through `f64Value`, by the
binary64 layout of log entry 8 (PRESUMED; 93_implementation_defined.md G3, general knowledge). -/
def Obligations.GendIAdvancesAndAnswers : Prop :=
  (∀ (x y : Val48) (z : Limb), decode (fieldsWord x y z 0 0x2) = .command .gendI) ∧
  ∀ s : State, ∃ t : State, exec .gendI s = .next t ∧
    t.S.toNat = (s.S.toNat * s.A.toNat + s.C.toNat) % 2 ^ 48 ∧
    t.A = s.A ∧ t.C = s.C ∧ t.inbox = s.inbox ∧
    Answers s t 0 0 (extF64 t.S).toNat ∧ f64Value (extF64 t.S) = some ((t.S.toNat : ℚ) / 2 ^ 48)

/-- 41_generate.md R98, `GENU.X`: encoding; the output and the new external state; no register changes. -/
def Obligations.GenuXAnswersFromItsOperand : Prop :=
  (∀ (x y : Val48) (z : Limb), decode (fieldsWord x y z 0 0x4) = .command (.genuX x)) ∧
  ∀ (x : Val48) (s : State), ∃ t : State, exec (.genuX x) s = .next t ∧
    t.S = s.S ∧ t.A = s.A ∧ t.C = s.C ∧ t.inbox = s.inbox ∧
    Answers s t 0 ((x.toNat * s.A.toNat + s.C.toNat) % 2 ^ 48)
      ((x.toNat * s.A.toNat + s.C.toNat) % 2 ^ 48 / 2 ^ 17)

/-- 41_generate.md R99, `GENS.X`: encoding; the output and the new external state; no register changes. -/
def Obligations.GensXAnswersFromItsOperand : Prop :=
  (∀ (x y : Val48) (z : Limb), decode (fieldsWord x y z 0 0x5) = .command (.gensX x)) ∧
  ∀ (x : Val48) (s : State), ∃ t : State, exec (.gensX x) s = .next t ∧
    t.S = s.S ∧ t.A = s.A ∧ t.C = s.C ∧ t.inbox = s.inbox ∧
    Answers s t 0 ((x.toNat * s.A.toNat + s.C.toNat) % 2 ^ 48)
      ((x.toNat * s.A.toNat + s.C.toNat) % 2 ^ 48 / 2 ^ 16)

/-- 41_generate.md R100, `GEND.X`: encoding; a double whose value is the new external state times `2^-48`, and that
state; no register changes. The clause on the value is R92's, and it reads the pattern through `f64Value`, by the
binary64 layout of log entry 8 (PRESUMED; 93_implementation_defined.md G3, general knowledge). -/
def Obligations.GendXAnswersFromItsOperand : Prop :=
  (∀ (x y : Val48) (z : Limb), decode (fieldsWord x y z 0 0x6) = .command (.gendX x)) ∧
  ∀ (x : Val48) (s : State), ∃ (t : State) (X' : Val48), exec (.gendX x) s = .next t ∧
    X'.toNat = (x.toNat * s.A.toNat + s.C.toNat) % 2 ^ 48 ∧
    t.S = s.S ∧ t.A = s.A ∧ t.C = s.C ∧ t.inbox = s.inbox ∧
    Answers s t 0 X'.toNat (extF64 X').toNat ∧ f64Value (extF64 X') = some ((X'.toNat : ℚ) / 2 ^ 48)

/-- 42_seed_params.md R110, `SETP`: encoding; the three registers take the operands; the response is zero. -/
def Obligations.SetpStoresItsOperands : Prop :=
  (∀ (x y : Val48) (z : Limb), decode (fieldsWord x y z 0 0x8) = .command (.setp x y z)) ∧
  ∀ (x y : Val48) (z : Limb) (s : State),
    exec (.setp x y z) s = .next { S := x, A := y, C := z, inbox := s.inbox, outbox := s.outbox ++ [0#128] }

/-- 42_seed_params.md R111, `RESEED`: encoding; `S` takes the operand and the parameters the defaults; the response
carries the old `S`. -/
def Obligations.ReseedRestoresDefaultsAndReturnsOldSeed : Prop :=
  (∀ (x y : Val48) (z : Limb), decode (fieldsWord x y z 0 0x9) = .command (.reseed x)) ∧
  ∀ (x : Val48) (s : State), ∃ t : State, exec (.reseed x) s = .next t ∧
    t.S = x ∧ t.A = 0x0005DEECE66D#48 ∧ t.C = 0x000B#16 ∧ t.inbox = s.inbox ∧ Answers s t 0 s.S.toNat 0

/-- 42_seed_params.md R112, `RESEEDI`: encoding; `S` is the raw pattern above the constant word; parameters as before;
the response is zero; and the variant with the switch `P_SEEDI_RESETS_PARAMS` on restores the defaults. -/
def Obligations.ReseediSeedsFromThePattern : Prop :=
  (∀ (x y : Val48) (z : Limb),
    decode (fieldsWord x y z 0 0xA) = .command (.reseedi (BitVec.ofNat 32 (x.toNat % 2 ^ 32)))) ∧
  ∀ (v : Seed32) (s : State),
    (∃ t : State, exec (.reseedi v) s = .next t ∧ t.S.toNat = v.toNat * 2 ^ 16 + 0x330E ∧
      t.A = s.A ∧ t.C = s.C ∧ t.inbox = s.inbox ∧ Answers s t 0 0 0) ∧
    (reseediWith true v s).S.toNat = v.toNat * 2 ^ 16 + 0x330E ∧
    (reseediWith true v s).A = 0x0005DEECE66D#48 ∧ (reseediWith true v s).C = 0x000B#16 ∧
    (reseediWith true v s).inbox = s.inbox ∧ Answers s (reseediWith true v s) 0 0 0

/-! ## A step, the exception and the access matrix -/

/-- 20_memory.md R46, R47 and 30_encoding.md R65: a presented word that decodes to a command runs exactly that
command, with the event taken off the port. -/
def Obligations.StepRunsTheDecodedCommand : Prop :=
  ∀ (s : State) (w : CmdWord) (rest : List HostEvent) (i : Instr), decode w = .command i →
    step { s with inbox := .command w :: rest } = exec i { s with inbox := rest }

/-- 60_exceptions.md R121, with 30_encoding.md R66 and R67: a word with a nonzero `rsv`, or with a reserved opcode,
answers `0x0001_0000_0000_0000_0000_0000_0000_0000` and changes no register. -/
def Obligations.IllegalCommandOnlyAnswers : Prop :=
  ∀ (s : State) (rest : List HostEvent) (x y : Val48) (z : Limb) (rsv : BitVec 12) (op : BitVec 4),
    (rsv ≠ 0 ∨ op.toNat ∈ [0x3, 0x7, 0xB, 0xC, 0xD, 0xE, 0xF]) →
    step { s with inbox := .command (fieldsWord x y z rsv op) :: rest } =
      .next { s with inbox := rest, outbox := s.outbox ++ [0x00010000000000000000000000000000#128] }

/-- 60_exceptions.md R122: every presented word answers one response, with `err = 0` if the word is legal and
`err = 1` if it is not. -/
def Obligations.ErrFieldTellsLegalFromIllegal : Prop :=
  ∀ (s : State) (w : CmdWord) (rest : List HostEvent), ∃ (t : State) (r : RspWord),
    step { s with inbox := .command w :: rest } = .next t ∧ t.outbox = s.outbox ++ [r] ∧
    Rsp.err r = if legalWord w then 0#1 else 1#1

/-- 10_state.md R30 and R33, 42_seed_params.md R113: in one transition, `A` or `C` changes only by a reset or by a
legal SETP or RESEED word, and `S` only by a reset or by a legal internal generate or seeding word. -/
def Obligations.RegistersChangeOnlyByTheirCommands : Prop :=
  ∀ (s t : State), step s = .next t →
    ((t.A ≠ s.A ∨ t.C ≠ s.C) →
      s.inbox.head? = some .reset ∨
        ∃ w, s.inbox.head? = some (.command w) ∧ w.toNat % 2 ^ 16 ∈ [0x8, 0x9]) ∧
    (t.S ≠ s.S →
      s.inbox.head? = some .reset ∨
        ∃ w, s.inbox.head? = some (.command w) ∧ w.toNat % 2 ^ 16 ∈ [0x0, 0x1, 0x2, 0x8, 0x9, 0xA])

/-- 10_state.md R20 and 30_encoding.md R68: a transition neither reads nor changes what was delivered before; it
delivers at most one response. (The record `outbox` is the model's own field, log entry 2.) -/
def Obligations.DeliveredResponsesAreNotState : Prop :=
  ∀ s : State, ∃ (t : State) (new : List RspWord), new.length ≤ 1 ∧
    ∀ delivered, step { s with outbox := delivered } = .next { t with outbox := delivered ++ new }

/-- 41_generate.md R101: an external generate command gives the same response whatever `S` holds, and leaves `S`. -/
def Obligations.ExternalCommandsDoNotReadS : Prop :=
  ∀ (k : OutputKind) (x v : Val48) (s : State), ∃ (t u : State),
    exec (externalCommand k x) s = .next t ∧ exec (externalCommand k x) { s with S := v } = .next u ∧
    t.S = s.S ∧ u.S = v ∧ t.outbox = u.outbox

/-! ## Commands together -/

/-- 70_reset_and_hazards.md R144 and 20_memory.md R47: a generate command right after a SETP uses the new state and
parameters, internal and external alike. -/
def Obligations.SetpGovernsTheNextCommand : Prop :=
  ∀ (s : State) (x y b : Val48) (z : Limb) (k : OutputKind), ∃ (t u : State),
    run 2
      { s with inbox := [.command (encode (.setp x y z)), .command (encode (internalCommand k))] } = .next t ∧
    t.S.toNat = (x.toNat * y.toNat + z.toNat) % 2 ^ 48 ∧
    run 2
      { s with inbox := [.command (encode (.setp x y z)), .command (encode (externalCommand k b))] } = .next u ∧
    u.S = x ∧ (u.outbox.getLast?.map fun r => (Rsp.sout r).toNat) = some ((b.toNat * y.toNat + z.toNat) % 2 ^ 48)

/-- 42_seed_params.md R111: after `RESEED x` the registers are those of reset followed by `SETP x, A_DEF, C_DEF`. -/
def Obligations.ReseedEqualsResetThenSetp : Prop :=
  ∀ (s : State) (x : Val48), ∃ (t u : State),
    step (s.present (.command (encode (.reseed x)))) = .next t ∧
    run 2
      { s with inbox := [.reset, .command (encode (.setp x 0x0005DEECE66D#48 0x000B#16))] } = .next u ∧
    SameRegisters t u

/-- 42_seed_params.md R111 and 70_reset_and_hazards.md R146: of two RESEEDs in a row, the first returns the old `S` and
the second the first one's operand. -/
def Obligations.SecondReseedReturnsFirstSeed : Prop :=
  ∀ (s : State) (x y : Val48), ∃ (t : State) (r1 r2 : RspWord),
    run 2
      { s with inbox := [.command (encode (.reseed x)), .command (encode (.reseed y))] } = .next t ∧
    t.outbox = s.outbox ++ [r1, r2] ∧ Rsp.sout r1 = s.S ∧ Rsp.sout r2 = x ∧ t.S = y

/-- 20_memory.md R52: SETP, RESEED and RESEEDI repeated with the same operands leave the registers of one execution. -/
def Obligations.SeedingTwiceIsSeedingOnce : Prop :=
  ∀ (s : State) (x y : Val48) (z : Limb) (v : Seed32),
    ∀ i ∈ [Instr.setp x y z, Instr.reseed x, Instr.reseedi v], ∃ (t u : State),
      exec i s = .next t ∧ exec i t = .next u ∧ SameRegisters t u

/-- 60_exceptions.md R131: `RESEED v`, then SETP with the returned seed and the parameters the host knows, puts all
three registers back. -/
def Obligations.ReseedThenSetpPutsTheStateBack : Prop :=
  ∀ (s : State) (v : Val48), ∃ (r : RspWord) (t : State) (r' : RspWord) (u : State),
    call (encode (.reseed v)) s = some (r, t) ∧ Rsp.sout r = s.S ∧
    call (encode (.setp (Rsp.sout r) s.A s.C)) t = some (r', u) ∧ SameRegisters s u

/-- 70_reset_and_hazards.md R147: two external commands with the same buffer value, before a write-back, answer the
same response. -/
def Obligations.SameBufferTwiceSameResponse : Prop :=
  ∀ (k : OutputKind) (buffer : Val48) (s : State), ∃ (r : RspWord) (t u : State),
    call (encode (externalCommand k buffer)) s = some (r, t) ∧
    call (encode (externalCommand k buffer)) t = some (r, u)

/-! ## Runs -/

/-- 60_exceptions.md R120, 70_reset_and_hazards.md R148, 30_encoding.md R68: whatever is presented, as many steps as
there are events accept them all, without a fault or a refusal; the run delivers exactly one response per command
word, after those delivered before, which stay as they were. -/
def Obligations.EveryPresentedEventCompletes : Prop :=
  ∀ s : State, ∃ t : State, run s.inbox.length s = .next t ∧ t.inbox = [] ∧
    t.outbox.length = s.outbox.length + (commandWords s.inbox).length ∧ s.outbox <+: t.outbox

/-- 20_memory.md R47: events take effect in acceptance order; what the earlier ones do does not depend on the later
ones, and the later ones start from what the earlier ones left. -/
def Obligations.EarlierEventsDoNotSeeLaterOnes : Prop :=
  ∀ (s : State) (es es' : List HostEvent), ∃ (t u : State),
    run es.length { s with inbox := es } = .next t ∧
    run es.length { s with inbox := es ++ es' } = .next { t with inbox := es' } ∧
    run es'.length { t with inbox := es' } = .next u ∧
    run (es.length + es'.length) { s with inbox := es ++ es' } = .next u

/-- 20_memory.md R46 and R48: at every point of every run, `A` and `C` are a pair that was written together: the
initial pair, the defaults, or the pair of one presented SETP word. No torn pair is ever seen. -/
def Obligations.ParametersAreNeverTorn : Prop :=
  ∀ (s : State) (n : Nat), ∃ t : State, run n s = .next t ∧
    WholePair s.A s.C (commandWords s.inbox) t.A t.C

/-- 20_memory.md R48, R53 and 60_exceptions.md R130: for every interleaving of the hosts' streams, the run accepts
every word, answers one response per word, and gives each host as many responses as it issued commands. -/
def Obligations.EveryInterleavingServesEveryHost : Prop :=
  ∀ (streams : List (List CmdWord)) (order : List (Nat × CmdWord)) (s : State), IsInterleaving streams order →
    ∃ t : State, run order.length (s.offered (order.map (·.2))) = .next t ∧ t.inbox = [] ∧
      (responsesSince s t).length = order.length ∧
      ∀ host < streams.length,
        (responsesTo host order (responsesSince s t)).length = (streams.getD host []).length

/-- 10_state.md R25, 20_memory.md R48, 41_generate.md R101: a host that issues only external generate words gets, in
every order in which no SETP or RESEED word is accepted, the responses it would get with the core to itself. -/
def Obligations.ExternalStreamUnaffectedByOtherHosts : Prop :=
  ∀ (order : List (Nat × CmdWord)) (host : Nat) (s : State),
    (∀ p ∈ order, p.2.toNat % 2 ^ 16 ∉ [0x8, 0x9]) →
    (∀ w ∈ wordsOf host order, w.toNat % 2 ^ 16 ∈ [0x4, 0x5, 0x6]) →
    ∃ (t u : State), run order.length (s.offered (order.map (·.2))) = .next t ∧
      run (wordsOf host order).length (s.offered (wordsOf host order)) = .next u ∧
      responsesTo host order (responsesSince s t) = responsesSince s u

/-- 41_generate.md R98 and 20_memory.md R41: a host that starts its buffer at `S` and writes `sout` back after each
external command gets the very outputs that the internal commands give, its buffer ends as the internal run's `S`,
and the core's own `S` has not moved. -/
def Obligations.ExternalStreamMatchesInternalStream : Prop :=
  ∀ (ks : List OutputKind) (s : State), ∃ (outputs : List ResWord) (t u : State),
    internalStream ks s = some (outputs, t) ∧ externalStream ks s.S s = some (outputs, t.S, u) ∧
    outputs.length = ks.length ∧ SameRegisters s u

/-- 30_encoding.md R68, R69, 41_generate.md R92, 60_exceptions.md R121: every step keeps the form of every delivered
response. Its bounds are on the pattern of a double; that they read as `2^-48` and `1 - 2^-48` is the layout of log
entry 8 (PRESUMED). -/
def Obligations.StepKeepsResponsesOk : Prop :=
  ∀ s t : State, s.ResponsesOk → step s = .next t → t.ResponsesOk

/-- The form of the responses holds at reset, where none has been delivered (log entry 2). -/
def Obligations.ResetResponsesOk : Prop := State.reset.ResponsesOk ∧ State.reset.NoErrors

/-- 60_exceptions.md R120 and R122: a run over legal words only reports no `IllegalCommand`. -/
def Obligations.LegalRunReportsNoError : Prop :=
  ∀ s : State, s.OnlyLegal → s.NoErrors →
    ∃ t : State, run s.inbox.length s = .next t ∧ t.inbox = [] ∧ t.NoErrors

/-- 60_exceptions.md R130: a transition of one core instance changes no other instance. -/
def Obligations.InstancesShareNothing : Prop :=
  ∀ (k : Nat) (cores : List State), ∃ cores' : List State, stepInstance k cores = .next cores' ∧
    cores'.length = cores.length ∧ (∀ j, j ≠ k → cores'[j]? = cores[j]?) ∧
    ∀ s, cores[k]? = some s → ∃ t : State, step s = .next t ∧ cores'[k]? = some t
end

