-- ==== Sys2Proof/Laws/Codec.lean ====
section
/-! SUPPORT. The fields of command words as numbers, and what the decoder reads from a word given by its fields. -/

namespace Sys2Proof

theorem Cmd.op_toNat (w : CmdWord) : (Cmd.op w).toNat = w.toNat % 2 ^ 4 := by
  simp [Cmd.op]

theorem Cmd.rsv_toNat (w : CmdWord) : (Cmd.rsv w).toNat = w.toNat / 2 ^ 4 % 2 ^ 12 := by
  simp [Cmd.rsv, Nat.shiftRight_eq_div_pow]

theorem Cmd.z_toNat (w : CmdWord) : (Cmd.z w).toNat = w.toNat / 2 ^ 16 % 2 ^ 16 := by
  simp [Cmd.z, Nat.shiftRight_eq_div_pow]

theorem Cmd.y_toNat (w : CmdWord) : (Cmd.y w).toNat = w.toNat / 2 ^ 32 % 2 ^ 48 := by
  simp [Cmd.y, Nat.shiftRight_eq_div_pow]

theorem Cmd.x_toNat (w : CmdWord) : (Cmd.x w).toNat = w.toNat / 2 ^ 80 := by
  have h := w.isLt
  simp [Cmd.x, Nat.shiftRight_eq_div_pow]
  omega

theorem Cmd.seedValue_toNat (w : CmdWord) : (Cmd.seedValue w).toNat = w.toNat / 2 ^ 80 % 2 ^ 32 := by
  have h := Cmd.x_toNat w
  simp [Cmd.seedValue, h]

namespace Machine

theorem fieldsWord_toNat (x y : Val48) (z : Limb) (rsv : BitVec 12) (op : BitVec 4) :
    (fieldsWord x y z rsv op).toNat
      = x.toNat * 2 ^ 80 + y.toNat * 2 ^ 32 + z.toNat * 2 ^ 16 + rsv.toNat * 2 ^ 4 + op.toNat := by
  have := x.isLt; have := y.isLt; have := z.isLt; have := rsv.isLt; have := op.isLt
  simp [fieldsWord]
  omega

@[simp] theorem op_fieldsWord (x y : Val48) (z : Limb) (rsv : BitVec 12) (op : BitVec 4) :
    Cmd.op (fieldsWord x y z rsv op) = op := by
  apply BitVec.eq_of_toNat_eq
  have := op.isLt
  rw [Cmd.op_toNat, fieldsWord_toNat]; omega

@[simp] theorem rsv_fieldsWord (x y : Val48) (z : Limb) (rsv : BitVec 12) (op : BitVec 4) :
    Cmd.rsv (fieldsWord x y z rsv op) = rsv := by
  apply BitVec.eq_of_toNat_eq
  have := rsv.isLt; have := op.isLt
  rw [Cmd.rsv_toNat, fieldsWord_toNat]; omega

@[simp] theorem z_fieldsWord (x y : Val48) (z : Limb) (rsv : BitVec 12) (op : BitVec 4) :
    Cmd.z (fieldsWord x y z rsv op) = z := by
  apply BitVec.eq_of_toNat_eq
  have := z.isLt; have := rsv.isLt; have := op.isLt
  rw [Cmd.z_toNat, fieldsWord_toNat]; omega

@[simp] theorem y_fieldsWord (x y : Val48) (z : Limb) (rsv : BitVec 12) (op : BitVec 4) :
    Cmd.y (fieldsWord x y z rsv op) = y := by
  apply BitVec.eq_of_toNat_eq
  have := y.isLt; have := z.isLt; have := rsv.isLt; have := op.isLt
  rw [Cmd.y_toNat, fieldsWord_toNat]; omega

@[simp] theorem x_fieldsWord (x y : Val48) (z : Limb) (rsv : BitVec 12) (op : BitVec 4) :
    Cmd.x (fieldsWord x y z rsv op) = x := by
  apply BitVec.eq_of_toNat_eq
  have := x.isLt; have := y.isLt; have := z.isLt; have := rsv.isLt; have := op.isLt
  rw [Cmd.x_toNat, fieldsWord_toNat]; omega

/-- The encoder's word, field by field in numbers. -/
theorem pack_eq_fieldsWord (x y : Val48) (z : Limb) (rsv : BitVec 12) (op : BitVec 4) :
    Cmd.pack x y z rsv op = fieldsWord x y z rsv op := by
  apply BitVec.eq_of_toNat_eq
  have := x.isLt; have := y.isLt; have := z.isLt; have := rsv.isLt; have := op.isLt
  rw [fieldsWord_toNat]
  simp only [Cmd.pack, BitVec.toNat_append]
  rw [← Nat.shiftLeft_add_eq_or_of_lt (by omega), ← Nat.shiftLeft_add_eq_or_of_lt (by omega),
    ← Nat.shiftLeft_add_eq_or_of_lt (by omega), ← Nat.shiftLeft_add_eq_or_of_lt (by omega)]
  simp only [Nat.shiftLeft_eq]
  omega

/-- Every word is the word of its own fields. -/
theorem fieldsWord_fields (w : CmdWord) :
    fieldsWord (Cmd.x w) (Cmd.y w) (Cmd.z w) (Cmd.rsv w) (Cmd.op w) = w := by
  apply BitVec.eq_of_toNat_eq
  rw [fieldsWord_toNat, Cmd.x_toNat, Cmd.y_toNat, Cmd.z_toNat, Cmd.rsv_toNat, Cmd.op_toNat]
  omega

/-- With the reserved bits zero, decoding is the opcode map. -/
theorem decode_of_rsv_zero {w : CmdWord} (h : Cmd.rsv w = 0) : decode w = decodeOpcode w := if_pos h

/-- With a reserved bit set, the word is illegal whatever its opcode. -/
theorem decode_of_rsv_ne_zero {w : CmdWord} (h : Cmd.rsv w ≠ 0) :
    decode w = .illegal (.reservedBits (Cmd.rsv w)) := if_neg h

/-- Everything the opcode map can answer, by the opcode's number. -/
theorem decodeOpcode_cases (w : CmdWord) :
    ((Cmd.op w).toNat = 0 ∧ decodeOpcode w = .command .genuI) ∨
    ((Cmd.op w).toNat = 1 ∧ decodeOpcode w = .command .gensI) ∨
    ((Cmd.op w).toNat = 2 ∧ decodeOpcode w = .command .gendI) ∨
    ((Cmd.op w).toNat = 4 ∧ decodeOpcode w = .command (.genuX (Cmd.x w))) ∨
    ((Cmd.op w).toNat = 5 ∧ decodeOpcode w = .command (.gensX (Cmd.x w))) ∨
    ((Cmd.op w).toNat = 6 ∧ decodeOpcode w = .command (.gendX (Cmd.x w))) ∨
    ((Cmd.op w).toNat = 8 ∧ decodeOpcode w = .command (.setp (Cmd.x w) (Cmd.y w) (Cmd.z w))) ∨
    ((Cmd.op w).toNat = 9 ∧ decodeOpcode w = .command (.reseed (Cmd.x w))) ∨
    ((Cmd.op w).toNat = 10 ∧ decodeOpcode w = .command (.reseedi (Cmd.seedValue w))) ∨
    ((Cmd.op w).toNat ∈ [3, 7, 11, 12, 13, 14, 15] ∧ decodeOpcode w = .illegal (.reservedOpcode (Cmd.op w))) := by
  have h := (Cmd.op w).isLt
  unfold decodeOpcode
  split <;> simp_all
  omega

end Machine

end Sys2Proof
end

