-- ==== Sys2Proof/Laws/Extract.lean ====
section
/-! SUPPORT. The three outputs as numbers. -/

namespace Sys2Proof.Machine

theorem toNat_extU31 (S : Val48) : (extU31 S).toNat = S.toNat / 2 ^ 17 := by
  have h := S.isLt
  simp [extU31, Nat.shiftRight_eq_div_pow]
  omega

theorem toNat_extS32 (S : Val48) : (extS32 S).toNat = S.toNat / 2 ^ 16 := by
  have h := S.isLt
  simp [extS32, Nat.shiftRight_eq_div_pow]
  omega

@[simp] theorem extF64_zero : extF64 0#48 = 0#64 := rfl

theorem msbIndex_bounds {S : Val48} (h : S ≠ 0) :
    2 ^ msbIndex S ≤ S.toNat ∧ S.toNat < 2 ^ (msbIndex S + 1) ∧ msbIndex S < 48 := by
  have h0 : S.toNat ≠ 0 := fun e => h (BitVec.eq_of_toNat_eq (by simpa using e))
  refine ⟨Nat.log2_self_le h0, Nat.lt_log2_self, (Nat.log2_lt h0).2 S.isLt⟩

/-- The pattern of a nonzero state: exponent field, then the bits below the leading 1. -/
theorem toNat_extF64 {S : Val48} (h : S ≠ 0) :
    (extF64 S).toNat
      = (975 + msbIndex S) * 2 ^ 52 + S.toNat * 2 ^ (52 - msbIndex S) % 2 ^ 52 := by
  obtain ⟨-, -, hp⟩ := msbIndex_bounds h
  have hm : S.toNat * 2 ^ (52 - msbIndex S) % 2 ^ 52 < 2 ^ 52 := Nat.mod_lt _ (by norm_num)
  simp only [extF64, if_neg h, BitVec.toNat_append, BitVec.toNat_ofNat, Nat.shiftLeft_eq]
  rw [← Nat.shiftLeft_eq _ 52, ← Nat.shiftLeft_add_eq_or_of_lt hm]
  simp only [Nat.shiftLeft_eq]
  have he : (1023 + msbIndex S - 48) % 2 ^ 11 = 975 + msbIndex S := by omega
  rw [he]
  simp

end Sys2Proof.Machine
end

