-- ==== Sys2Proof/Laws/Mac.lean ====
section
/-! SUPPORT. Limbs and the recurrence as numbers. -/

namespace Sys2Proof.Machine

theorem limb0_toNat (v : Val48) : (limb0 v).toNat = v.toNat % 2 ^ 16 := by
  simp [limb0]

theorem limb1_toNat (v : Val48) : (limb1 v).toNat = v.toNat / 2 ^ 16 % 2 ^ 16 := by
  simp [limb1, Nat.shiftRight_eq_div_pow]

theorem limb2_toNat (v : Val48) : (limb2 v).toNat = v.toNat / 2 ^ 32 := by
  have h := v.isLt
  simp [limb2, Nat.shiftRight_eq_div_pow]
  omega

theorem ofLimbs_toNat (w2 w1 w0 : Limb) :
    (ofLimbs w2 w1 w0).toNat = w2.toNat * 2 ^ 32 + w1.toNat * 2 ^ 16 + w0.toNat := by
  have := w2.isLt; have := w1.isLt; have := w0.isLt
  simp only [ofLimbs, BitVec.toNat_append]
  rw [← Nat.shiftLeft_add_eq_or_of_lt (by omega), ← Nat.shiftLeft_add_eq_or_of_lt (by omega)]
  simp only [Nat.shiftLeft_eq]
  omega

theorem seedState_toNat (v : Seed32) : (seedState v).toNat = v.toNat * 2 ^ 16 + 0x330E := by
  have := v.isLt
  rw [seedState, ofLimbs_toNat]
  simp [Config.SEEDI_LO, Nat.shiftRight_eq_div_pow]
  omega

/-- The advance as a number, without the model's own reduction. -/
theorem toNat_advance (S A : Val48) (C : Limb) :
    (advance S A C).toNat = (S.toNat * A.toNat + C.toNat) % 2 ^ 48 := by
  simp [advance]

end Sys2Proof.Machine
end

