-- ==== Sys2Proof/Laws/State.lean ====
section
/-! SUPPORT. One lemma per field per update of State, so that no proof unfolds a record update. -/

namespace Sys2Proof.Machine

@[simp] theorem State.setS_S (s : State) (v : Val48) : (s.setS v).S = v := rfl
@[simp] theorem State.setS_A (s : State) (v : Val48) : (s.setS v).A = s.A := rfl
@[simp] theorem State.setS_C (s : State) (v : Val48) : (s.setS v).C = s.C := rfl
@[simp] theorem State.setS_inbox (s : State) (v : Val48) : (s.setS v).inbox = s.inbox := rfl
@[simp] theorem State.setS_outbox (s : State) (v : Val48) : (s.setS v).outbox = s.outbox := rfl

@[simp] theorem State.setParams_S (s : State) (a : Val48) (c : Limb) : (s.setParams a c).S = s.S := rfl
@[simp] theorem State.setParams_A (s : State) (a : Val48) (c : Limb) : (s.setParams a c).A = a := rfl
@[simp] theorem State.setParams_C (s : State) (a : Val48) (c : Limb) : (s.setParams a c).C = c := rfl
@[simp] theorem State.setParams_inbox (s : State) (a : Val48) (c : Limb) : (s.setParams a c).inbox = s.inbox := rfl
@[simp] theorem State.setParams_outbox (s : State) (a : Val48) (c : Limb) :
    (s.setParams a c).outbox = s.outbox := rfl

@[simp] theorem State.deliver_S (s : State) (r : RspWord) : (s.deliver r).S = s.S := rfl
@[simp] theorem State.deliver_A (s : State) (r : RspWord) : (s.deliver r).A = s.A := rfl
@[simp] theorem State.deliver_C (s : State) (r : RspWord) : (s.deliver r).C = s.C := rfl
@[simp] theorem State.deliver_inbox (s : State) (r : RspWord) : (s.deliver r).inbox = s.inbox := rfl
@[simp] theorem State.deliver_outbox (s : State) (r : RspWord) : (s.deliver r).outbox = s.outbox ++ [r] := rfl

@[simp] theorem State.present_S (s : State) (e : HostEvent) : (s.present e).S = s.S := rfl
@[simp] theorem State.present_A (s : State) (e : HostEvent) : (s.present e).A = s.A := rfl
@[simp] theorem State.present_C (s : State) (e : HostEvent) : (s.present e).C = s.C := rfl
@[simp] theorem State.present_inbox (s : State) (e : HostEvent) : (s.present e).inbox = e :: s.inbox := rfl
@[simp] theorem State.present_outbox (s : State) (e : HostEvent) : (s.present e).outbox = s.outbox := rfl

/-- Two states with equal fields are equal. -/
theorem State.ext_fields {s t : State} (hS : s.S = t.S) (hA : s.A = t.A) (hC : s.C = t.C)
    (hi : s.inbox = t.inbox) (ho : s.outbox = t.outbox) : s = t := by
  cases s; cases t; simp_all

end Sys2Proof.Machine
end

