-- ==== Sys2Proof/Laws/Ops.lean ====
section
/-! SUPPORT. One lemma per shared operation: everything it does, field by field. -/

namespace Sys2Proof.Machine

/-- A response word as a number (30_encoding.md R68). -/
theorem Rsp.toNat_pack (err : BitVec 1) (sout : Val48) (res : ResWord) :
    (Rsp.pack err sout res).toNat = err.toNat * 2 ^ 112 + sout.toNat * 2 ^ 64 + res.toNat := by
  have := err.isLt; have := sout.isLt; have := res.isLt
  simp only [Rsp.pack, BitVec.toNat_append]
  rw [← Nat.shiftLeft_add_eq_or_of_lt (by omega), ← Nat.shiftLeft_add_eq_or_of_lt (by omega),
    ← Nat.shiftLeft_add_eq_or_of_lt (by omega)]
  simp only [Nat.shiftLeft_eq, BitVec.toNat_ofNat]
  omega

theorem Rsp.toNat_res (r : RspWord) : (Rsp.res r).toNat = r.toNat % 2 ^ 64 := by
  simp [Rsp.res]

theorem Rsp.toNat_sout (r : RspWord) : (Rsp.sout r).toNat = r.toNat / 2 ^ 64 % 2 ^ 48 := by
  simp [Rsp.sout, Nat.shiftRight_eq_div_pow]

theorem Rsp.toNat_err (r : RspWord) : (Rsp.err r).toNat = r.toNat / 2 ^ 112 % 2 := by
  simp [Rsp.err, Nat.shiftRight_eq_div_pow]

theorem Rsp.toNat_zero (r : RspWord) : (Rsp.zero r).toNat = r.toNat / 2 ^ 113 % 2 ^ 15 := by
  simp [Rsp.zero, Nat.shiftRight_eq_div_pow]

@[simp] theorem Rsp.res_pack (err : BitVec 1) (sout : Val48) (res : ResWord) :
    Rsp.res (Rsp.pack err sout res) = res := by
  apply BitVec.eq_of_toNat_eq
  have := res.isLt
  rw [Rsp.toNat_res, Rsp.toNat_pack]; omega

@[simp] theorem Rsp.sout_pack (err : BitVec 1) (sout : Val48) (res : ResWord) :
    Rsp.sout (Rsp.pack err sout res) = sout := by
  apply BitVec.eq_of_toNat_eq
  have := res.isLt; have := sout.isLt
  rw [Rsp.toNat_sout, Rsp.toNat_pack]; omega

@[simp] theorem Rsp.err_pack (err : BitVec 1) (sout : Val48) (res : ResWord) :
    Rsp.err (Rsp.pack err sout res) = err := by
  apply BitVec.eq_of_toNat_eq
  have := res.isLt; have := sout.isLt; have := err.isLt
  rw [Rsp.toNat_err, Rsp.toNat_pack]; omega

@[simp] theorem Rsp.zero_pack (err : BitVec 1) (sout : Val48) (res : ResWord) :
    Rsp.zero (Rsp.pack err sout res) = 0 := by
  apply BitVec.eq_of_toNat_eq
  have := res.isLt; have := sout.isLt; have := err.isLt
  rw [Rsp.toNat_zero, Rsp.toNat_pack]
  show _ = 0
  omega

@[simp] theorem respond_S (k : Cause) (r : ResWord) (o : Val48) (s : State) : (respond k r o s).S = s.S := rfl
@[simp] theorem respond_A (k : Cause) (r : ResWord) (o : Val48) (s : State) : (respond k r o s).A = s.A := rfl
@[simp] theorem respond_C (k : Cause) (r : ResWord) (o : Val48) (s : State) : (respond k r o s).C = s.C := rfl
@[simp] theorem respond_inbox (k : Cause) (r : ResWord) (o : Val48) (s : State) :
    (respond k r o s).inbox = s.inbox := rfl
@[simp] theorem respond_outbox (k : Cause) (r : ResWord) (o : Val48) (s : State) :
    (respond k r o s).outbox = s.outbox ++ [Rsp.pack k.err o r] := rfl

/-- The one exception: one response, every other field as before (60_exceptions.md R121). -/
theorem raiseIllegalCommand_fields (s : State) :
    raiseIllegalCommand s = { s with outbox := s.outbox ++ [Rsp.pack 1 0 0] } := rfl

/-- Reset: the three registers at their reset values, the port as before (70_reset_and_hazards.md R140). -/
theorem performReset_fields (s : State) :
    performReset s = { s with S := Config.S_RESET, A := Config.A_DEF, C := Config.C_DEF } := rfl

/-- The `res` field of each output as a number (30_encoding.md R69). -/
theorem toNat_extract_u31 (S : Val48) : (extract .u31 S).toNat = S.toNat / 2 ^ 17 := by
  have h := S.isLt
  simp [extract, toNat_extU31]
  omega

theorem toNat_extract_s32 (S : Val48) : (extract .s32 S).toNat = S.toNat / 2 ^ 16 := by
  have h := S.isLt
  simp [extract, toNat_extS32]
  omega

/-- An internal generate command, field by field (41_generate.md R95 to R97). -/
theorem generateInternal_fields (k : OutputKind) (s : State) :
    generateInternal k s =
      { s with
        S := advance s.S s.A s.C
        outbox := s.outbox ++ [Rsp.pack 0 0 (extract k (advance s.S s.A s.C))] } := rfl

/-- An external generate command, field by field (41_generate.md R98 to R101). -/
theorem generateExternal_fields (k : OutputKind) (x : Val48) (s : State) :
    generateExternal k x s =
      { s with
        outbox := s.outbox ++ [Rsp.pack 0 (advance x s.A s.C) (extract k (advance x s.A s.C))] } := rfl

/-- RESEEDI of this hardware, field by field: the parameters stay (42_seed_params.md R112). -/
theorem execReseedi_fields (v : Seed32) (s : State) :
    execReseedi v s =
      .next { s with S := seedState v, outbox := s.outbox ++ [Rsp.pack 0 0 0] } := rfl

end Sys2Proof.Machine
end

