-- ==== Sys2Proof/Laws/PerInstr.lean ====
section
/-! SUPPORT. A fact about every command as syntax, one lemma per constructor: the encoder writes only legal words
(30_encoding.md R63, R70). -/

namespace Sys2Proof.Laws.EncodeLegal

/-- The word of the command is legal, and its low 16 bits are its opcode. -/
def Statement (i : Instr) : Prop := legalWord (encode i) = true ∧ (encode i).toNat % 2 ^ 16 = i.opcode.toNat

/-- The low 16 bits of an encoded command are its opcode, since the encoder writes `rsv = 0`. -/
theorem low_half (i : Instr) : (encode i).toNat % 2 ^ 16 = i.opcode.toNat := by
  have h := i.opcode.isLt
  have h0 : (0 : BitVec 12).toNat = 0 := rfl
  rw [encode, Machine.pack_eq_fieldsWord, Machine.fieldsWord_toNat, h0]
  omega

theorem of_opcode (i : Instr) (h : legalLowHalves.contains i.opcode.toNat = true) : Statement i :=
  ⟨by rw [legalWord, low_half]; exact h, low_half i⟩

theorem genuI : Statement .genuI := of_opcode _ rfl
theorem gensI : Statement .gensI := of_opcode _ rfl
theorem gendI : Statement .gendI := of_opcode _ rfl
theorem genuX (x : Val48) : Statement (.genuX x) := of_opcode _ rfl
theorem gensX (x : Val48) : Statement (.gensX x) := of_opcode _ rfl
theorem gendX (x : Val48) : Statement (.gendX x) := of_opcode _ rfl
theorem setp (x y : Val48) (z : Limb) : Statement (.setp x y z) := of_opcode _ rfl
theorem reseed (x : Val48) : Statement (.reseed x) := of_opcode _ rfl
theorem reseedi (v : Seed32) : Statement (.reseedi v) := of_opcode _ rfl

end Sys2Proof.Laws.EncodeLegal
end

