-- ==== Sys2Proof/Laws/Step.lean ====
section
/-! SUPPORT. What a step can do, said once: a step accepts an event, or holds when none is presented. -/

namespace Sys2Proof.Machine

/-- The registers and the response that executing a command gives, without the port. -/
theorem exec_port (i : Instr) (s : State) :
    ∃ S' A' C' r, ∀ inbox outbox,
      exec i { s with inbox := inbox, outbox := outbox }
        = .next { S := S', A := A', C := C', inbox := inbox, outbox := outbox ++ [r] } := by
  cases i with
  | genuI => exact ⟨advance s.S s.A s.C, s.A, s.C, Rsp.pack 0 0 (extract .u31 (advance s.S s.A s.C)), fun _ _ => rfl⟩
  | gensI => exact ⟨advance s.S s.A s.C, s.A, s.C, Rsp.pack 0 0 (extract .s32 (advance s.S s.A s.C)), fun _ _ => rfl⟩
  | gendI => exact ⟨advance s.S s.A s.C, s.A, s.C, Rsp.pack 0 0 (extract .f64 (advance s.S s.A s.C)), fun _ _ => rfl⟩
  | genuX x =>
    exact ⟨s.S, s.A, s.C, Rsp.pack 0 (advance x s.A s.C) (extract .u31 (advance x s.A s.C)), fun _ _ => rfl⟩
  | gensX x =>
    exact ⟨s.S, s.A, s.C, Rsp.pack 0 (advance x s.A s.C) (extract .s32 (advance x s.A s.C)), fun _ _ => rfl⟩
  | gendX x =>
    exact ⟨s.S, s.A, s.C, Rsp.pack 0 (advance x s.A s.C) (extract .f64 (advance x s.A s.C)), fun _ _ => rfl⟩
  | setp x y z => exact ⟨x, y, z, Rsp.pack 0 0 0, fun _ _ => rfl⟩
  | reseed x => exact ⟨x, Config.A_DEF, Config.C_DEF, Rsp.pack 0 s.S 0, fun _ _ => rfl⟩
  | reseedi v => exact ⟨seedState v, s.A, s.C, Rsp.pack 0 0 0, fun _ _ => rfl⟩

theorem step_idle {s : State} (h : s.inbox = []) : step s = .next s := by
  simp [step, accept, h]

theorem step_reset {s : State} {rest : List HostEvent} (h : s.inbox = .reset :: rest) :
    step s = .next (performReset { s with inbox := rest }) := by
  simp [step, accept, h]

theorem step_command {s : State} {w : CmdWord} {rest : List HostEvent} (h : s.inbox = .command w :: rest) :
    step s = match decode w with
      | .command i => exec i { s with inbox := rest }
      | .illegal _ => .next (raiseIllegalCommand { s with inbox := rest }) := by
  cases hd : decode w <;> simp [step, accept, h, hd]

/-- The transition of a presented event, without the port: new registers and the responses delivered, which do not
depend on what waits behind it or was delivered before it. -/
theorem step_event (e : HostEvent) (s : State) :
    ∃ S' A' C' new, ∀ rest outbox,
      step { s with inbox := e :: rest, outbox := outbox }
        = .next { S := S', A := A', C := C', inbox := rest, outbox := outbox ++ new } := by
  cases e with
  | reset =>
    refine ⟨Config.S_RESET, Config.A_DEF, Config.C_DEF, [], fun rest outbox => ?_⟩
    rw [step_reset rfl, performReset_fields, List.append_nil]
  | command w =>
    cases h : decode w with
    | command i =>
      obtain ⟨S', A', C', r, hr⟩ := exec_port i s
      refine ⟨S', A', C', [r], fun rest outbox => ?_⟩
      rw [step_command rfl, h]
      exact hr rest outbox
    | illegal c =>
      refine ⟨s.S, s.A, s.C, [Rsp.pack 1 0 0], fun rest outbox => ?_⟩
      rw [step_command rfl, h]
      rfl

end Sys2Proof.Machine
end

