-- ==== Sys2Proof/Laws/Run.lean ====
section
/-! SUPPORT. Runs of several transitions: one step and the rest, and one run after another. -/

namespace Sys2Proof.Machine

@[simp] theorem run_zero (s : State) : run 0 s = .next s := rfl

/-- Running `n + 1` steps is one step, then `n`. -/
theorem run_succ {s t : State} (n : Nat) (h : step s = .next t) : run (n + 1) s = run n t := by
  have hs : Host.Core.step Sys2Proof.core s = .next t := h
  simp only [run, Host.Core.run, hs]
  rfl

/-- A run that goes on starts with a step that goes on. -/
theorem step_of_run {s t : State} {n : Nat} (h : run (n + 1) s = .next t) : ∃ u, step s = .next u ∧ run n u = .next t := by
  cases hs : step s with
  | next u => exact ⟨u, rfl, by rw [← run_succ n hs]; exact h⟩
  | fault f => cases f
  | refused r =>
    have hr : Host.Core.step Sys2Proof.core s = .refused r := hs
    simp [run, Host.Core.run, hr] at h

/-- Running `n + m` steps is `n` steps, then `m`. -/
theorem run_add {n : Nat} (m : Nat) : ∀ {s t : State}, run n s = .next t → run (n + m) s = run m t := by
  induction n with
  | zero => intro s t h; cases h; rw [Nat.zero_add]
  | succ n ih =>
    intro s t h
    obtain ⟨u, hu, hr⟩ := step_of_run h
    rw [Nat.succ_add, run_succ _ hu]
    exact ih hr

end Sys2Proof.Machine
end

