-- ==== Sys2Proof/Tests/Slice0.lean ====
section
/-! SUPPORT. Tests of the model. Every expected result is a value of spec/95_test_vectors.md or follows from the rule
named; V, A, X and P are the vectors and programs of that file. The last part holds the witnesses of the statements'
hypotheses. -/

namespace Sys2Proof.Tests

open Sys2Proof Sys2Proof.Machine

/-! ## Ill-formed terms are refused -/

theorem test_reserved_opcode_word_is_illegal : legalWord 0x00000000000000000000000000000003#128 = false := by decide
theorem test_reserved_bits_word_is_illegal : legalWord 0x00000000000000000000000000008000#128 = false := by decide
theorem test_genuX_too_wide : (AsmLine.genuX (2 ^ 48)).wellFormed = false := by decide
theorem test_gensX_too_wide : (AsmLine.gensX (2 ^ 48)).wellFormed = false := by decide
theorem test_gendX_too_wide : (AsmLine.gendX (2 ^ 48)).wellFormed = false := by decide
theorem test_setp_seed_too_wide : (AsmLine.setp (2 ^ 48) 0 0).wellFormed = false := by decide
theorem test_setp_mult_too_wide : (AsmLine.setp 0 (2 ^ 48) 0).wellFormed = false := by decide
theorem test_setp_addend_too_wide : (AsmLine.setp 0 0 (2 ^ 16)).wellFormed = false := by decide
theorem test_reseed_too_wide : (AsmLine.reseed (2 ^ 48)).wellFormed = false := by decide
theorem test_reseedi_hex_too_wide : (AsmLine.reseedi (.hex (2 ^ 32))).wellFormed = false := by decide
theorem test_reseedi_dec_too_large : (AsmLine.reseedi (.dec (2 ^ 31))).wellFormed = false := by decide
theorem test_reseedi_dec_too_small : (AsmLine.reseedi (.dec (-2 ^ 31 - 1))).wellFormed = false := by decide

/-! ## Decoding: the words of section 2.3, written out from the encoding -/

theorem test_decode_genuI : decode 0xFFFFFFFFFFFFFFFFFFFFFFFFFFFF0000#128 = .command .genuI := by decide
theorem test_decode_gensI : decode 0x00000000000000000000000000000001#128 = .command .gensI := by decide
theorem test_decode_gendI : decode 0x00000000000000000000000000000002#128 = .command .gendI := by decide
theorem test_decode_genuX :
    decode 0x123456789ABC00000000000000000004#128 = .command (.genuX 0x123456789ABC#48) := by decide
theorem test_decode_gensX :
    decode 0xFFFFFFFFFFFF00000000000000000005#128 = .command (.gensX 0xFFFFFFFFFFFF#48) := by decide
theorem test_decode_gendX : decode 0x00000000000000000000000000000006#128 = .command (.gendX 0#48) := by decide
theorem test_decode_setp :
    decode 0x00010002000300000000000200010008#128 =
      .command (.setp 0x000100020003#48 0x000000000002#48 0x0001#16) := by decide
theorem test_decode_reseed :
    decode 0xAAAA5555AAAA00000000000000000009#128 = .command (.reseed 0xAAAA5555AAAA#48) := by decide
theorem test_decode_reseedi :
    decode 0x0000FFFFFFFF0000000000000000000A#128 = .command (.reseedi 0xFFFFFFFF#32) := by decide
theorem test_encode_setp :
    encode (.setp 0x000100020003#48 0x000000000002#48 0x0001#16) = 0x00010002000300000000000200010008#128 := by decide
theorem test_encode_reseedi : encode (.reseedi 0x80000000#32) = 0x0000800000000000000000000000000A#128 := by decide
theorem test_decodeTableWord : decodeTableWord 16 0x000A = some (.reseedi 0#32) := by decide
theorem test_decodeTableWord_reserved : decodeTableWord 16 0x0007 = none := by decide

/-! ## The assembler (30_encoding.md R70) -/

theorem test_assemble_reseedi_minus_one :
    assembleText ['R', 'E', 'S', 'E', 'E', 'D', 'I', ' ', '-', '1']
      = some 0x0000FFFFFFFF0000000000000000000A#128 := by decide
theorem test_assemble_too_wide :
    assembleText ['S', 'E', 'T', 'P', ' ', '0', 'x', '0', ',', '0', 'x', '0', ',', '0', 'x', '1', '0', '0', '0', '0']
      = none := by decide

/-! ## Arithmetic and outputs: sections 2.1, 2.2 and 40_iteration.md R86 -/

theorem test_advance_A7 : advance 0xFFFFFFFFFFFF#48 0xFFFFFFFFFFFF#48 0xFFFF#16 = 0x000000010000#48 := by decide
theorem test_advance_A13 : advance 0xFFFFFFFF0000#48 0x000000010000#48 0xFFFF#16 = 0xFFFF0000FFFF#48 := by decide
theorem test_acc0_R86 : acc0 Config.S_RESET Config.A_DEF Config.C_DEF = 0x2DF45101 := by decide
theorem test_acc1_R86 : acc1 Config.S_RESET Config.A_DEF Config.C_DEF = 0xC718B725 := by decide
theorem test_acc2_R86 : acc2 Config.S_RESET Config.A_DEF Config.C_DEF = 0xA5FE657E := by decide
theorem test_split_R86 : advanceSplit Config.S_RESET Config.A_DEF Config.C_DEF = 0x657EB7255101 := by decide
theorem test_extF64_X2 : extF64 0x000000000001#48 = 0x3CF0000000000000#64 := by decide
theorem test_extF64_X9 : extF64 0x8000FFFF0000#48 = 0x3FE0001FFFE00000#64 := by decide
theorem test_extU31_X9 : extU31 0x8000FFFF0000#48 = 0x40007FFF#31 := by decide
theorem test_extS32_X9 : asI32 (extS32 0x8000FFFF0000#48) = -2147418113 := by decide

/-! ## One step on a small state -/

/-- The core with the given registers and nothing presented or delivered. -/
def regs (S A : Val48) (C : Limb) : State := { S := S, A := A, C := C, inbox := [], outbox := [] }

/-- The registers after one presented word, and the response delivered. -/
def after (w : CmdWord) (s : State) : Option (Val48 × Val48 × Limb × List RspWord) :=
  match step (s.present (.command w)) with
  | .next t => some (t.S, t.A, t.C, t.outbox)
  | .fault _ => none
  | .refused _ => none

theorem test_genuI_V14 :
    after 0xFFFFFFFFFFFFFFFFFFFFFFFFFFFF0000#128 State.reset =
      some (0x657EB7255101#48, 0x0005DEECE66D#48, 0x000B#16, [0x32BF5B92#128]) := by decide
theorem test_genuI_V7 :
    after 0x0#128 (regs 0x800000000000#48 2#48 0#16) = some (0#48, 2#48, 0#16, [0#128]) := by decide
theorem test_gensI_second_after_reset :
    after 0x1#128 (regs 0x657EB7255101#48 0x0005DEECE66D#48 0x000B#16) =
      some (0xD72A0C966378#48, 0x0005DEECE66D#48, 0x000B#16, [0xD72A0C96#128]) := by decide
theorem test_gensI_V10 :
    after 0x1#128 (regs 0x800000000000#48 1#48 0#16) =
      some (0x800000000000#48, 1#48, 0#16, [0x80000000#128]) := by decide
theorem test_gendI_V3 :
    after 0x2#128 State.reset =
      some (0x657EB7255101#48, 0x0005DEECE66D#48, 0x000B#16, [0x3FD95FADC9544040#128]) := by decide
theorem test_gendI_V8 :
    after 0x2#128 (regs 0x800000000000#48 2#48 0#16) = some (0#48, 2#48, 0#16, [0#128]) := by decide
theorem test_genuX_V4 :
    after 0x1234ABCD330E00000000000000000004#128 State.reset =
      some (0x1234ABCD330E#48, 0x0005DEECE66D#48, 0x000B#16, [0x0000657EB72551010000000032BF5B92#128]) := by decide
theorem test_genuX_V13 :
    after 0x123456789ABC00000000000000000004#128 (regs 5#48 0#48 0xBEEF#16) =
      some (5#48, 0#48, 0xBEEF#16, [0x000000000000BEEF0000000000000000#128]) := by decide
theorem test_gensX_P3_step3 :
    after 0xFFFFFFFFFFFF00000000000000000005#128 (regs 0x000200040007#48 2#48 1#16) =
      some (0x000200040007#48, 2#48, 1#16, [0x0000FFFFFFFFFFFF00000000FFFFFFFF#128]) := by decide
theorem test_gensX_V5 :
    after 0xFFFFFFFFFFFF00000000000000000005#128 State.reset =
      some (0x1234ABCD330E#48, 0x0005DEECE66D#48, 0x000B#16, [0x0000FFFA2113199E00000000FFFA2113#128]) := by decide
theorem test_gendX_P4_step3 :
    after 0x00000000000000000000000000000006#128 (regs 1#48 0x0005DEECE66D#48 0x000B#16) =
      some (1#48, 0x0005DEECE66D#48, 0x000B#16, [0x000000000000000B3D26000000000000#128]) := by decide
theorem test_setp_V15 :
    after 0x00010002000300000000000200010008#128 State.reset =
      some (0x000100020003#48, 2#48, 1#16, [0#128]) := by decide
theorem test_reseed_V17 :
    after 0x1234ABCD330E00000000000000000009#128 (regs 0x000200040007#48 2#48 1#16) =
      some (0x1234ABCD330E#48, 0x0005DEECE66D#48, 0x000B#16, [0x00000002000400070000000000000000#128]) := by decide
theorem test_reseed_V18 :
    after 0x1234ABCD330E00000000000000000009#128 State.reset =
      some (0x1234ABCD330E#48, 0x0005DEECE66D#48, 0x000B#16, [0x00001234ABCD330E0000000000000000#128]) := by decide
theorem test_reseedi_V19 :
    after 0xA#128 (regs 0x1234ABCD330E#48 2#48 1#16) = some (0x00000000330E#48, 2#48, 1#16, [0#128]) := by decide
theorem test_reseedi_V23 :
    after 0xFFFF000000010000000000000000000A#128 State.reset =
      some (0x00000001330E#48, 0x0005DEECE66D#48, 0x000B#16, [0#128]) := by decide
theorem test_illegal_V27 :
    after 0xFFFFFFFFFFFFFFFFFFFFFFFFFFFFFFFF#128 State.reset =
      some (0x1234ABCD330E#48, 0x0005DEECE66D#48, 0x000B#16, [0x00010000000000000000000000000000#128]) := by decide
theorem test_illegal_V29 :
    after 0x00000000000100000000000100010018#128 State.reset =
      some (0x1234ABCD330E#48, 0x0005DEECE66D#48, 0x000B#16, [0x00010000000000000000000000000000#128]) := by decide

/-- The word placed by withFetchWord runs in the very next step, ahead of what else is presented. -/
theorem test_withFetchWord_runs_next :
    (match step ((regs 7#48 2#48 1#16).withFetchWord 16 0x0009) with
      | .next t => some (t.S, t.inbox, t.outbox)
      | .fault _ => none
      | .refused _ => none) = some (0#48, [], [0x00000000000000070000000000000000#128]) := by decide

/-! ## Witnesses: states and operands that meet the statements' hypotheses -/

theorem witness_double_least : 2 ^ 0 ≤ (0x1#48).toNat ∧ (0x1#48).toNat < 2 ^ (0 + 1) := by decide
theorem witness_double_greatest :
    2 ^ 47 ≤ (0xFFFFFFFFFFFF#48).toNat ∧ (0xFFFFFFFFFFFF#48).toNat < 2 ^ (47 + 1) := by decide

theorem witness_encode_of_decode_setp :
    decode (fieldsWord 1 2 3 0 0x8) = .command (.setp 1 2 3) := by decide
theorem witness_encode_of_decode_external :
    decode (fieldsWord 1 2 3 0 0x4) = .command (.genuX 1) := by decide
theorem witness_encode_of_decode_reseed :
    decode (fieldsWord 1 2 3 0 0x9) = .command (.reseed 1) := by decide
theorem witness_encode_of_decode_reseedi :
    decode (fieldsWord 0xFFFF00000001#48 2 3 0 0xA) = .command (.reseedi 1) := by decide
theorem witness_encode_of_decode_internal :
    decode (fieldsWord 1 2 3 0 0x2) = .command .gendI := by decide

/-- The hypotheses of UnusedFieldsHaveNoEffect on given operands. -/
abbrev SameUsedFields (x y x' y' : Val48) (z z' : Limb) (op : BitVec 4) : Prop :=
  (op.toNat ∈ [4, 5, 6, 8, 9] → x = x') ∧ (op.toNat = 8 → y = y' ∧ z = z') ∧
    (op.toNat = 10 → x.toNat % 2 ^ 32 = x'.toNat % 2 ^ 32)

theorem witness_unused_internal : SameUsedFields 1 2 7 8 3 9 0x0 := by decide
theorem witness_unused_external : SameUsedFields 1 2 1 8 3 9 0x6 := by decide
theorem witness_unused_setp : SameUsedFields 1 2 1 2 3 3 0x8 := by decide
theorem witness_unused_reseedi : SameUsedFields 0xFFFF00000001#48 2 1 8 3 9 0xA := by decide

theorem witness_step_runs_decoded : decode 0x0#128 = .command .genuI := by decide

theorem witness_illegal_reserved_bits : (1 : BitVec 12) ≠ 0 := by decide
theorem witness_illegal_reserved_opcode_least :
    (0x3 : BitVec 4).toNat ∈ [0x3, 0x7, 0xB, 0xC, 0xD, 0xE, 0xF] := by decide
theorem witness_illegal_reserved_opcode_greatest :
    (0xF : BitVec 4).toNat ∈ [0x3, 0x7, 0xB, 0xC, 0xD, 0xE, 0xF] := by decide

/-- The premises of RegistersChangeOnlyByTheirCommands: one step changes all three registers. -/
theorem witness_registers_change :
    ∃ t : State, step (State.reset.present (.command (encode (.setp 1 2 3)))) = .next t ∧
      t.A ≠ State.reset.A ∧ t.C ≠ State.reset.C ∧ t.S ≠ State.reset.S :=
  ⟨_, rfl, by decide, by decide, by decide⟩

theorem witness_seeding_twice :
    Instr.reseedi 5 ∈ [Instr.setp 1 2 3, Instr.reseed 4, Instr.reseedi 5] := by decide

/-- Two hosts: host 0 seeds and draws from the internal state, host 1 draws from a buffer of its own. -/
def twoHosts : List (List CmdWord) := [[encode (.reseedi 0), encode .genuI], [encode (.genuX 1), encode (.gendX 2)]]

def twoHostsOrder : List (Nat × CmdWord) :=
  [(1, encode (.genuX 1)), (0, encode (.reseedi 0)), (0, encode .genuI), (1, encode (.gendX 2))]

theorem witness_interleaving : IsInterleaving twoHosts twoHostsOrder ∧ 1 < twoHosts.length := by decide

theorem witness_external_stream :
    (∀ p ∈ twoHostsOrder, p.2.toNat % 2 ^ 16 ∉ [0x8, 0x9]) ∧
    (∀ w ∈ wordsOf 1 twoHostsOrder, w.toNat % 2 ^ 16 ∈ [0x4, 0x5, 0x6]) ∧
    wordsOf 1 twoHostsOrder = [encode (.genuX 1), encode (.gendX 2)] := by
  have hw : wordsOf 1 twoHostsOrder = [encode (.genuX 1), encode (.gendX 2)] := rfl
  refine ⟨by simp only [twoHostsOrder, List.forall_mem_cons]; decide, ?_, hw⟩
  rw [hw]
  simp only [List.forall_mem_cons]
  exact ⟨by decide, by decide, fun _ h => by cases h⟩

/-- A state with one response delivered and one command presented. -/
def busy : State := { State.reset with inbox := [.command (encode .gendI)], outbox := [0x32BF5B92#128] }

theorem witness_responses_ok : busy.ResponsesOk ∧ ∃ t : State, step busy = .next t := ⟨by decide, _, rfl⟩

theorem witness_legal_run : busy.OnlyLegal ∧ busy.NoErrors := by decide

theorem witness_instances : [State.reset, busy][1]? = some busy ∧ (0 : Nat) ≠ 1 := ⟨rfl, by decide⟩

end Sys2Proof.Tests
end

/-! ## What one step does to the registers and the port, by the accepted word -/

namespace Sys2Proof.Machine

/-- The low 16 bits of a word are its reserved bits above its opcode (30_encoding.md R61). -/
theorem lowHalf_eq (w : CmdWord) : w.toNat % 2 ^ 16 = (Cmd.rsv w).toNat * 2 ^ 4 + (Cmd.op w).toNat := by
  rw [Cmd.rsv_toNat, Cmd.op_toNat]
  omega

/-- A word that decodes to a command has that command's opcode as its low 16 bits (30_encoding.md R61, R63, R66). -/
theorem lowHalf_of_decode {w : CmdWord} {i : Instr} (h : decode w = .command i) :
    w.toNat % 2 ^ 16 = i.opcode.toNat := by
  by_cases hr : Cmd.rsv w = 0
  · have hlow : w.toNat % 2 ^ 16 = (Cmd.op w).toNat := by rw [lowHalf_eq, hr]; simp
    rw [decode_of_rsv_zero hr] at h
    rw [hlow]
    rcases decodeOpcode_cases w with
      ⟨ho, hd⟩ | ⟨ho, hd⟩ | ⟨ho, hd⟩ | ⟨ho, hd⟩ | ⟨ho, hd⟩ | ⟨ho, hd⟩ | ⟨ho, hd⟩ | ⟨ho, hd⟩ | ⟨ho, hd⟩ | ⟨-, hd⟩ <;>
      rw [hd] at h <;> cases h
    all_goals exact ho
  · rw [decode_of_rsv_ne_zero hr] at h
    cases h

/-- With a low half below 16 the reserved bits are zero, and the low half is the opcode (30_encoding.md R61). -/
theorem decode_of_lowHalf {w : CmdWord} {op : Nat} (hop : op < 16) (h : w.toNat % 2 ^ 16 = op) :
    decode w = decodeOpcode w ∧ (Cmd.op w).toNat = op := by
  rw [lowHalf_eq] at h
  have hrsv : (Cmd.rsv w).toNat = (0#12).toNat := by rw [BitVec.toNat_zero]; omega
  exact ⟨decode_of_rsv_zero (BitVec.eq_of_toNat_eq hrsv), by omega⟩

/-- The opcodes 4, 5 and 6 are the external generate commands on the field `x` (30_encoding.md R63). -/
theorem decode_external {w : CmdWord} (h : w.toNat % 2 ^ 16 ∈ [0x4, 0x5, 0x6]) :
    ∃ k, decode w = .command (externalCommand k (Cmd.x w)) := by
  simp only [List.mem_cons, List.not_mem_nil, or_false] at h
  rcases h with h | h | h
  · obtain ⟨hd, hop⟩ := decode_of_lowHalf (by decide) h
    exact ⟨.u31, by simp [hd, decodeOpcode, hop, externalCommand]⟩
  · obtain ⟨hd, hop⟩ := decode_of_lowHalf (by decide) h
    exact ⟨.s32, by simp [hd, decodeOpcode, hop, externalCommand]⟩
  · obtain ⟨hd, hop⟩ := decode_of_lowHalf (by decide) h
    exact ⟨.f64, by simp [hd, decodeOpcode, hop, externalCommand]⟩

/-- Only SETP and RESEED write the parameters (42_seed_params.md R113). -/
theorem exec_keeps_params {i : Instr} {s t : State} (hi : i.opcode.toNat ∉ [0x8, 0x9]) (h : exec i s = .next t) :
    t.A = s.A ∧ t.C = s.C := by
  cases i with
  | setp x y z | reseed x => simp [Instr.opcode] at hi
  | _ => cases h; exact ⟨rfl, rfl⟩

/-- The external generate commands leave `S` (10_state.md R33, 41_generate.md R101). -/
theorem exec_keeps_S {i : Instr} {s t : State} (hi : i.opcode.toNat ∉ [0x0, 0x1, 0x2, 0x8, 0x9, 0xA])
    (h : exec i s = .next t) : t.S = s.S := by
  cases i with
  | genuX x | gensX x | gendX x => cases h; rfl
  | _ => simp [Instr.opcode] at hi

/-- Every external generate command has the one effect of `generateExternal` (41_generate.md R98 to R100). -/
theorem exec_externalCommand (k : OutputKind) (x : Val48) (s : State) :
    exec (externalCommand k x) s = .next (generateExternal k x s) := by
  cases k <;> rfl

theorem step_of_decode_command {s : State} {w : CmdWord} {rest : List HostEvent} {i : Instr}
    (h : s.inbox = .command w :: rest) (hd : decode w = .command i) :
    step s = exec i { s with inbox := rest } := by
  rw [step_command h, hd]

theorem step_of_decode_illegal {s : State} {w : CmdWord} {rest : List HostEvent} {c : IllegalCause}
    (h : s.inbox = .command w :: rest) (hd : decode w = .illegal c) :
    step s = .next (raiseIllegalCommand { s with inbox := rest }) := by
  rw [step_command h, hd]

/-- A step that accepts a word delivers exactly one response, and neither the response nor the registers it leaves
depend on what waits behind the word or was delivered before it (20_memory.md R47, 30_encoding.md R68). -/
theorem step_command_port (w : CmdWord) (s : State) :
    ∃ S' A' C' r, ∀ rest outbox,
      step { s with inbox := .command w :: rest, outbox := outbox }
        = .next { S := S', A := A', C := C', inbox := rest, outbox := outbox ++ [r] } := by
  cases hd : decode w with
  | command i =>
    obtain ⟨S', A', C', r, hr⟩ := exec_port i s
    refine ⟨S', A', C', r, fun rest outbox => ?_⟩
    rw [step_of_decode_command rfl hd]
    exact hr rest outbox
  | illegal c =>
    refine ⟨s.S, s.A, s.C, Rsp.pack 1 0 0, fun rest outbox => ?_⟩
    rw [step_of_decode_illegal rfl hd, raiseIllegalCommand_fields]

section AcceptedWord

variable {s t : State} {w : CmdWord} {rest : List HostEvent}

/-- A word that is no SETP and no RESEED leaves the parameters, be it legal or not (42_seed_params.md R113,
60_exceptions.md R121). -/
theorem step_command_keeps_params (h : s.inbox = .command w :: rest) (hw : w.toNat % 2 ^ 16 ∉ [0x8, 0x9])
    (hs : step s = .next t) : t.A = s.A ∧ t.C = s.C := by
  cases hd : decode w with
  | command i =>
    rw [lowHalf_of_decode hd] at hw
    rw [step_of_decode_command h hd] at hs
    exact exec_keeps_params (s := { s with inbox := rest }) hw hs
  | illegal c =>
    rw [step_of_decode_illegal h hd] at hs
    cases hs
    exact ⟨rfl, rfl⟩

/-- A word that is no internal generate and no seeding command leaves `S`, be it legal or not (10_state.md R33,
60_exceptions.md R121). -/
theorem step_command_keeps_S (h : s.inbox = .command w :: rest)
    (hw : w.toNat % 2 ^ 16 ∉ [0x0, 0x1, 0x2, 0x8, 0x9, 0xA]) (hs : step s = .next t) : t.S = s.S := by
  cases hd : decode w with
  | command i =>
    rw [lowHalf_of_decode hd] at hw
    rw [step_of_decode_command h hd] at hs
    exact exec_keeps_S (s := { s with inbox := rest }) hw hs
  | illegal c =>
    rw [step_of_decode_illegal h hd] at hs
    cases hs
    rfl

end AcceptedWord

/-! ## Several hosts: the shared run and the run of one host alone -/

/-- A word that is no SETP and no RESEED changes at most `S`, and delivers one response. -/
theorem step_offered_keeps_params {w : CmdWord} (hw : w.toNat % 2 ^ 16 ∉ [0x8, 0x9]) (s : State)
    (ws : List CmdWord) :
    ∃ v r, step (s.offered (w :: ws)) = .next (((s.setS v).deliver r).offered ws) := by
  obtain ⟨S', A', C', r, hstep⟩ := step_command_port w s
  have hs : step (s.offered (w :: ws)) = _ := hstep (ws.map .command) s.outbox
  obtain ⟨hA, hC⟩ := step_command_keeps_params (rest := ws.map .command) rfl hw hs
  cases hA
  cases hC
  exact ⟨S', r, hs⟩

/-- An external generate word only delivers a response, the same in all states with the same parameters
(10_state.md R25, 41_generate.md R101). -/
theorem step_offered_external {w : CmdWord} (hw : w.toNat % 2 ^ 16 ∈ [0x4, 0x5, 0x6]) (a : Val48) (c : Limb) :
    ∃ r, ∀ (s : State) (ws : List CmdWord), s.A = a → s.C = c →
      step (s.offered (w :: ws)) = .next ((s.deliver r).offered ws) := by
  obtain ⟨k, hd⟩ := decode_external hw
  refine ⟨Rsp.pack 0 (advance (Cmd.x w) a c) (extract k (advance (Cmd.x w) a c)), fun s ws hA hC => ?_⟩
  subst hA hC
  rw [step_of_decode_command (rest := ws.map .command) rfl hd, exec_externalCommand, generateExternal_fields]
  rfl

section Routing

variable {host : Nat} {p : Nat × CmdWord} (order : List (Nat × CmdWord)) (r : RspWord) (rs : List RspWord)

theorem wordsOf_cons_own (h : p.1 = host) : wordsOf host (p :: order) = p.2 :: wordsOf host order := by
  simp [wordsOf, h]

theorem wordsOf_cons_other (h : p.1 ≠ host) : wordsOf host (p :: order) = wordsOf host order := by
  simp [wordsOf, h]

theorem responsesTo_cons_own (h : p.1 = host) :
    responsesTo host (p :: order) (r :: rs) = r :: responsesTo host order rs := by
  simp [responsesTo, h]

theorem responsesTo_cons_other (h : p.1 ≠ host) :
    responsesTo host (p :: order) (r :: rs) = responsesTo host order rs := by
  simp [responsesTo, h]

end Routing

/-- The run of all hosts' words, and the run of one external host's words from a state with the same parameters: the
shared run keeps the parameters, and what it answers to the host is what the lone run answers. The two states may
differ in `S`, since the other hosts move it. -/
theorem run_shared_and_alone (host : Nat) (order : List (Nat × CmdWord))
    (hparams : ∀ p ∈ order, p.2.toNat % 2 ^ 16 ∉ [0x8, 0x9])
    (hext : ∀ w ∈ wordsOf host order, w.toNat % 2 ^ 16 ∈ [0x4, 0x5, 0x6]) :
    ∀ s t : State, s.A = t.A → s.C = t.C → ∃ v rs,
      run order.length (s.offered (order.map (·.2)))
        = .next { s with S := v, inbox := [], outbox := s.outbox ++ rs } ∧
      run (wordsOf host order).length (t.offered (wordsOf host order))
        = .next { t with inbox := [], outbox := t.outbox ++ responsesTo host order rs } := by
  induction order with
  | nil =>
    intro s t _ _
    exact ⟨s.S, [], by simp [State.offered], by simp [State.offered, wordsOf, responsesTo]⟩
  | cons p order ih =>
    intro s t hA hC
    rw [List.forall_mem_cons] at hparams
    obtain ⟨hp, hparams⟩ := hparams
    by_cases hown : p.1 = host
    · rw [wordsOf_cons_own order hown, List.forall_mem_cons] at hext
      obtain ⟨hw, hext⟩ := hext
      obtain ⟨r, hr⟩ := step_offered_external hw t.A t.C
      obtain ⟨v, rs, hshared, halone⟩ := ih hparams hext (s.deliver r) (t.deliver r) hA hC
      refine ⟨v, r :: rs, ?_, ?_⟩
      · rw [List.map_cons, List.length_cons, run_succ _ (hr s _ hA hC), hshared]
        simp [State.deliver]
      · rw [wordsOf_cons_own order hown, List.length_cons, run_succ _ (hr t _ rfl rfl), halone,
          responsesTo_cons_own order r rs hown]
        simp [State.deliver]
    · rw [wordsOf_cons_other order hown] at hext ⊢
      obtain ⟨v₁, r, hr⟩ := step_offered_keeps_params hp s (order.map (·.2))
      obtain ⟨v, rs, hshared, halone⟩ := ih hparams hext ((s.setS v₁).deliver r) t hA hC
      refine ⟨v, r :: rs, ?_, ?_⟩
      · rw [List.map_cons, List.length_cons, run_succ _ hr, hshared]
        simp [State.deliver, State.setS]
      · rw [halone, responsesTo_cons_other order r rs hown]

/-- Settles O48: the shared and the lone run from one state, by induction over the acceptance order
(`run_shared_and_alone`). -/
theorem externalStreamUnaffectedByOtherHosts : Obligations.ExternalStreamUnaffectedByOtherHosts := by
  unfold Obligations.ExternalStreamUnaffectedByOtherHosts
  intro order host s hparams hext
  obtain ⟨v, rs, hshared, halone⟩ := run_shared_and_alone host order hparams hext s s rfl rfl
  exact ⟨_, _, hshared, halone, by simp [responsesSince]⟩

/-- Settles O35: by the event accepted; a word changes a register only with one of the opcodes that write it. -/
theorem registersChangeOnlyByTheirCommands : Obligations.RegistersChangeOnlyByTheirCommands := by
  unfold Obligations.RegistersChangeOnlyByTheirCommands
  intro s t hs
  match hin : s.inbox with
  | [] =>
    rw [step_idle hin] at hs
    cases hs
    simp
  | .reset :: rest => exact ⟨fun _ => .inl rfl, fun _ => .inl rfl⟩
  | .command w :: rest =>
    refine ⟨fun hAC => .inr ⟨w, rfl, ?_⟩, fun hS => .inr ⟨w, rfl, ?_⟩⟩
    · by_contra hw
      obtain ⟨hA, hC⟩ := step_command_keeps_params hin hw hs
      exact hAC.elim (· hA) (· hC)
    · by_contra hw
      exact hS (step_command_keeps_S hin hw hs)

/-- Settles O36: by the event accepted; a word delivers one response, a reset and an idle step none. -/
theorem deliveredResponsesAreNotState : Obligations.DeliveredResponsesAreNotState := by
  unfold Obligations.DeliveredResponsesAreNotState
  intro s
  match s.inbox with
  | [] =>
    refine ⟨{ s with inbox := [] }, [], by simp, fun delivered => ?_⟩
    rw [step_idle rfl, List.append_nil]
  | .reset :: rest =>
    refine ⟨performReset { s with inbox := rest }, [], by simp, fun delivered => ?_⟩
    rw [step_reset rfl, List.append_nil]
    rfl
  | .command w :: rest =>
    obtain ⟨S', A', C', r, hr⟩ := step_command_port w s
    refine ⟨{ S := S', A := A', C := C', inbox := rest, outbox := [] }, [r], by simp,
      hr rest⟩

/-! ## The reset values and the limbs of a value -/

/-- Settles O1: the reset state and its limbs are literals. -/
theorem resetRegisterValues : Obligations.ResetRegisterValues := by
  unfold Obligations.ResetRegisterValues
  decide

/-- The limbs of a value put together give the value (10_state.md R21). -/
theorem ofLimbs_limbs (v : Val48) : ofLimbs (limb2 v) (limb1 v) (limb0 v) = v := by
  apply BitVec.eq_of_toNat_eq
  rw [ofLimbs_toNat, limb2_toNat, limb1_toNat, limb0_toNat]
  omega

/-- The value three limbs make, by shifts and or, as 10_state.md R21 writes it. -/
theorem ofLimbs_toNat_or (w2 w1 w0 : Limb) :
    (ofLimbs w2 w1 w0).toNat = (w0.toNat ||| (w1.toNat <<< 16)) ||| (w2.toNat <<< 32) := by
  rw [ofLimbs, BitVec.toNat_append, BitVec.toNat_append, Nat.shiftLeft_or_distrib, ← Nat.shiftLeft_add,
    Nat.or_comm, Nat.or_comm (w2.toNat <<< _), Nat.or_assoc]

/-- Settles O6: each limb as a number, and the value they make. -/
theorem limbsNameTheBitsOfAValue : Obligations.LimbsNameTheBitsOfAValue := by
  unfold Obligations.LimbsNameTheBitsOfAValue
  intro v
  refine ⟨limb0_toNat v, limb1_toNat v, limb2_toNat v, ?_, ofLimbs_limbs v⟩
  rw [← ofLimbs_toNat_or, ofLimbs_limbs]

end Sys2Proof.Machine

/-! ## Runs over the events presented -/

namespace Sys2Proof.Machine

/-- A step that accepts an event delivers one response for a word and none for a reset (30_encoding.md R68,
70_reset_and_hazards.md R140); like `step_event`, it does not see the rest of the port. -/
theorem step_event_counted (e : HostEvent) (s : State) :
    ∃ S' A' C' new, new.length = (commandWords [e]).length ∧ ∀ rest outbox,
      step { s with inbox := e :: rest, outbox := outbox }
        = .next { S := S', A := A', C := C', inbox := rest, outbox := outbox ++ new } := by
  cases e with
  | reset =>
    refine ⟨Config.S_RESET, Config.A_DEF, Config.C_DEF, [], rfl, fun rest outbox => ?_⟩
    rw [step_reset rfl, performReset_fields, List.append_nil]
  | command w =>
    obtain ⟨S', A', C', r, hr⟩ := step_command_port w s
    exact ⟨S', A', C', [r], rfl, hr⟩

theorem commandWords_cons (e : HostEvent) (es : List HostEvent) :
    commandWords (e :: es) = commandWords [e] ++ commandWords es := by
  cases e <;> rfl

theorem commandWords_map_command (ws : List CmdWord) : commandWords (ws.map .command) = ws := by
  induction ws with
  | nil => rfl
  | cons w ws ih => rw [List.map_cons, commandWords, ih]

/-- As many steps as events are presented accept them all; the registers they leave and the responses they deliver, one
per command word, depend neither on what waits behind them nor on what was delivered before (20_memory.md R47). -/
theorem run_events (es : List HostEvent) :
    ∀ s : State, ∃ S' A' C' new, new.length = (commandWords es).length ∧ ∀ rest outbox,
      run es.length { s with inbox := es ++ rest, outbox := outbox }
        = .next { S := S', A := A', C := C', inbox := rest, outbox := outbox ++ new } := by
  induction es with
  | nil => exact fun s => ⟨s.S, s.A, s.C, [], rfl, fun rest outbox => by simp⟩
  | cons e es ih =>
    intro s
    obtain ⟨S₁, A₁, C₁, first, hfirst, hstep⟩ := step_event_counted e s
    obtain ⟨S', A', C', later, hlater, hrun⟩ := ih { s with S := S₁, A := A₁, C := C₁ }
    refine ⟨S', A', C', first ++ later, ?_, fun rest outbox => ?_⟩
    · rw [commandWords_cons, List.length_append, List.length_append, hfirst, hlater]
    · rw [List.length_cons, List.cons_append, run_succ _ (hstep (es ++ rest) outbox), hrun, List.append_assoc]

/-- Settles O44: the run over all events presented (`run_events`), with nothing behind them. -/
theorem everyPresentedEventCompletes : Obligations.EveryPresentedEventCompletes := by
  unfold Obligations.EveryPresentedEventCompletes
  intro s
  obtain ⟨S', A', C', new, hnew, hrun⟩ := run_events s.inbox s
  have hall := hrun [] s.outbox
  rw [List.append_nil] at hall
  exact ⟨_, hall, rfl, by rw [List.length_append, hnew], List.prefix_append _ _⟩

/-- Settles O45: the run over `es` is the same with nothing and with `es'` behind it (`run_events`), and what follows
starts from the state it left (`run_add`). -/
theorem earlierEventsDoNotSeeLaterOnes : Obligations.EarlierEventsDoNotSeeLaterOnes := by
  unfold Obligations.EarlierEventsDoNotSeeLaterOnes
  intro s es es'
  obtain ⟨S', A', C', new, -, hrun⟩ := run_events es s
  obtain ⟨S'', A'', C'', new', -, hrun'⟩ := run_events es' { s with S := S', A := A', C := C' }
  have halone := hrun [] s.outbox
  have hlater := hrun' [] (s.outbox ++ new)
  rw [List.append_nil] at halone hlater
  have hbefore := hrun es' s.outbox
  exact ⟨_, _, halone, hbefore, hlater, (run_add _ hbefore).trans hlater⟩

/-! ## The parameters as one pair -/

/-- A low half of 8 is SETP on the fields `x`, `y` and `z` (30_encoding.md R63). -/
theorem decode_setp {w : CmdWord} (h : w.toNat % 2 ^ 16 = 8) :
    decode w = .command (.setp (Cmd.x w) (Cmd.y w) (Cmd.z w)) := by
  obtain ⟨hd, hop⟩ := decode_of_lowHalf (by decide) h
  simp [hd, decodeOpcode, hop]

/-- A low half of 9 is RESEED on the field `x` (30_encoding.md R63). -/
theorem decode_reseed {w : CmdWord} (h : w.toNat % 2 ^ 16 = 9) : decode w = .command (.reseed (Cmd.x w)) := by
  obtain ⟨hd, hop⟩ := decode_of_lowHalf (by decide) h
  simp [hd, decodeOpcode, hop]

/-- The pair stays whole from one stretch of a run to the next. -/
theorem WholePair.trans {a a₁ a₂ : Val48} {c c₁ c₂ : Limb} {ws ws₁ : List CmdWord}
    (h : WholePair a c ws a₁ c₁) (h₁ : WholePair a₁ c₁ ws₁ a₂ c₂) (hws : ws₁ ⊆ ws) : WholePair a c ws a₂ c₂ := by
  rcases h₁ with ⟨rfl, rfl⟩ | hdef | ⟨w, hw, hsetp⟩
  · exact h
  · exact .inr (.inl hdef)
  · exact .inr (.inr ⟨w, hws hw, hsetp⟩)

/-- A word leaves the parameters, sets the defaults as a RESEED, or sets its own pair as a SETP (20_memory.md R45). -/
theorem step_command_wholePair {s t : State} {w : CmdWord} {rest : List HostEvent} (h : s.inbox = .command w :: rest)
    (hs : step s = .next t) : WholePair s.A s.C (commandWords s.inbox) t.A t.C := by
  by_cases hw : w.toNat % 2 ^ 16 ∈ [0x8, 0x9]
  · simp only [List.mem_cons, List.not_mem_nil, or_false] at hw
    rcases hw with hw | hw
    · rw [step_of_decode_command h (decode_setp hw)] at hs
      cases hs
      exact .inr (.inr ⟨w, by simp [h, commandWords], hw, rfl, rfl⟩)
    · rw [step_of_decode_command h (decode_reseed hw)] at hs
      cases hs
      exact .inr (.inl ⟨rfl, rfl⟩)
  · exact .inl (step_command_keeps_params h hw hs)

/-- Every state has a next one, whose parameters are a whole pair, and no word is presented that was not presented
before (20_memory.md R46). -/
theorem step_wholePair (s : State) :
    ∃ t, step s = .next t ∧ WholePair s.A s.C (commandWords s.inbox) t.A t.C ∧
      commandWords t.inbox ⊆ commandWords s.inbox := by
  match hin : s.inbox with
  | [] => exact ⟨s, step_idle hin, .inl ⟨rfl, rfl⟩, by rw [hin]; exact List.Subset.refl _⟩
  | .reset :: rest => exact ⟨_, step_reset hin, .inr (.inl ⟨rfl, rfl⟩), List.Subset.refl _⟩
  | .command w :: rest =>
    obtain ⟨S', A', C', r, hr⟩ := step_command_port w s
    have hs := hr rest s.outbox
    rw [← hin] at hs ⊢
    exact ⟨_, hs, step_command_wholePair hin hs, by rw [hin]; exact List.subset_cons_self _ _⟩

/-- Settles O46: by induction over the number of steps; each step gives a whole pair (`step_wholePair`), and whole
pairs compose (`WholePair.trans`). -/
theorem parametersAreNeverTorn : Obligations.ParametersAreNeverTorn := by
  unfold Obligations.ParametersAreNeverTorn
  intro s n
  induction n generalizing s with
  | zero => exact ⟨s, rfl, .inl ⟨rfl, rfl⟩⟩
  | succ n ih =>
    obtain ⟨t, hstep, hpair, hwords⟩ := step_wholePair s
    obtain ⟨u, hrun, hpair'⟩ := ih t
    exact ⟨u, (run_succ n hstep).trans hrun, hpair.trans hpair' hwords⟩

/-! ## Every interleaving is served -/

/-- With one response per word, a host gets as many responses as words of its own were accepted (20_memory.md R53). -/
theorem length_responsesTo (host : Nat) {order : List (Nat × CmdWord)} {rs : List RspWord}
    (h : rs.length = order.length) : (responsesTo host order rs).length = (wordsOf host order).length := by
  have hfst : (order.zip rs).map Prod.fst = order := List.map_fst_zip h.ge
  rw [responsesTo, wordsOf, List.length_map, List.length_map]
  conv_rhs => rw [← hfst, List.filter_map, List.length_map]
  rfl

/-- Settles O47: the run over the words offered delivers one response per word (`run_events`), and the responses are
routed as the words were (`length_responsesTo`). -/
theorem everyInterleavingServesEveryHost : Obligations.EveryInterleavingServesEveryHost := by
  unfold Obligations.EveryInterleavingServesEveryHost
  intro streams order s hinter
  obtain ⟨S', A', C', new, hnew, hrun⟩ := run_events ((order.map (·.2)).map .command) s
  rw [commandWords_map_command, List.length_map] at hnew
  have hall := hrun [] s.outbox
  rw [List.append_nil, List.length_map, List.length_map] at hall
  have hsince : responsesSince s { S := S', A := A', C := C', inbox := [], outbox := s.outbox ++ new } = new :=
    List.drop_left
  refine ⟨_, hall, rfl, by rw [hsince, hnew], fun host hhost => ?_⟩
  rw [hsince, length_responsesTo host hnew, hinter.2 host hhost]

/-! ## Encoded commands: decoding, one call, two in a row -/

@[simp] theorem seedValue_fieldsWord (v : Seed32) (y : Val48) (z : Limb) (rsv : BitVec 12) (op : BitVec 4) :
    Cmd.seedValue (fieldsWord (v.setWidth 48) y z rsv op) = v := by
  have := v.isLt
  apply BitVec.eq_of_toNat_eq
  simp [Cmd.seedValue]
  omega

/-- The decoder reads back what the encoder writes (30_encoding.md R61, R63, R70). -/
theorem decode_encode (i : Instr) : decode (encode i) = .command i := by
  rw [encode, pack_eq_fieldsWord, decode_of_rsv_zero (rsv_fieldsWord ..), decodeOpcode, op_fieldsWord]
  cases i <;> simp [Instr.opcode, Instr.fieldX, Instr.fieldY, Instr.fieldZ]

/-- A presented encoded command runs that command. -/
theorem step_encode (i : Instr) (s : State) (rest : List HostEvent) :
    step { s with inbox := .command (encode i) :: rest } = exec i { s with inbox := rest } :=
  step_of_decode_command rfl (decode_encode i)

/-- The host reads the response that the command delivers last (20_memory.md R53). -/
theorem call_encode {i : Instr} {s t : State} {r : RspWord} {delivered : List RspWord} (h : exec i s = .next t)
    (hr : t.outbox = delivered ++ [r]) : call (encode i) s = some (r, t) := by
  have hs : step (s.present (.command (encode i))) = .next t := (step_encode i s s.inbox).trans h
  simp [call, hs, hr]

/-- Two encoded commands in a row run one after the other. -/
theorem run_two_encoded {i j : Instr} {s t u : State} (hi : exec i { s with inbox := [] } = .next t)
    (hj : exec j t = .next u) :
    run 2 { s with inbox := [.command (encode i), .command (encode j)] } = .next u := by
  obtain ⟨S', A', C', r, hport⟩ := exec_port i s
  cases (hport [] s.outbox).symm.trans hi
  have hfirst := (step_encode i s [.command (encode j)]).trans (hport _ s.outbox)
  have hsecond := (step_encode j { s with S := S', A := A', C := C', outbox := s.outbox ++ [r] } []).trans hj
  exact (run_succ 1 hfirst).trans (run_succ 0 hsecond)

/-- Every internal generate command has the one effect of `generateInternal` (41_generate.md R95 to R97). -/
theorem exec_internalCommand (k : OutputKind) (s : State) :
    exec (internalCommand k) s = .next (generateInternal k s) := by
  cases k <;> rfl

/-! ## The external walk beside the internal stream -/

theorem call_internalCommand (k : OutputKind) (s : State) :
    call (encode (internalCommand k)) s
      = some (Rsp.pack 0 0 (extract k (advance s.S s.A s.C)), generateInternal k s) :=
  call_encode (exec_internalCommand k s) rfl

theorem call_externalCommand (k : OutputKind) (x : Val48) (s : State) :
    call (encode (externalCommand k x)) s
      = some (Rsp.pack 0 (advance x s.A s.C) (extract k (advance x s.A s.C)), generateExternal k x s) :=
  call_encode (exec_externalCommand k x s) rfl

/-- A buffer that starts at `s.S` walks with the internal stream from `s`, in any core `u` with the same parameters:
the cores may differ in `S`, since only the internal stream moves it (41_generate.md R93, R101). -/
theorem externalStream_simulates_internalStream (ks : List OutputKind) :
    ∀ s u : State, s.A = u.A → s.C = u.C → ∃ outputs t v,
      internalStream ks s = some (outputs, t) ∧ externalStream ks s.S u = some (outputs, t.S, v) ∧
      outputs.length = ks.length ∧ SameRegisters u v := by
  induction ks with
  | nil => exact fun s u _ _ => ⟨[], s, u, rfl, rfl, rfl, rfl, rfl, rfl⟩
  | cons k ks ih =>
    intro s u hA hC
    obtain ⟨outputs, t, v, hint, hext, hlen, hregs⟩ :=
      ih (generateInternal k s) (generateExternal k s.S u) hA hC
    refine ⟨extract k (advance s.S s.A s.C) :: outputs, t, v, ?_, ?_, congrArg (· + 1) hlen, hregs⟩
    · simp [internalStream, call_internalCommand, hint]
    · have hbuffer : (generateInternal k s).S = advance s.S u.A u.C := by rw [← hA, ← hC]; rfl
      rw [hbuffer] at hext
      simp [externalStream, call_externalCommand, writeBack, hext, hA, hC]

/-- Settles O49: the two streams from one state (`externalStream_simulates_internalStream`). -/
theorem externalStreamMatchesInternalStream : Obligations.ExternalStreamMatchesInternalStream := by
  unfold Obligations.ExternalStreamMatchesInternalStream
  exact fun ks s => externalStream_simulates_internalStream ks s s rfl rfl

/-! ## Seeding commands and what follows them -/

/-- Settles O38: SETP and the generate command run one after the other; the advance is read as a number. -/
theorem setpGovernsTheNextCommand : Obligations.SetpGovernsTheNextCommand := by
  unfold Obligations.SetpGovernsTheNextCommand
  intro s x y b z k
  refine ⟨_, _, run_two_encoded rfl (exec_internalCommand k _), ?_,
    run_two_encoded rfl (exec_externalCommand k b _), rfl, ?_⟩
  · rw [generateInternal_fields]
    exact toNat_advance x y z
  · rw [generateExternal_fields]
    simp [toNat_advance]

/-- Settles O40: the two RESEEDs run one after the other; each answers the seed it finds. -/
theorem secondReseedReturnsFirstSeed : Obligations.SecondReseedReturnsFirstSeed := by
  unfold Obligations.SecondReseedReturnsFirstSeed
  intro s x y
  exact ⟨_, Rsp.pack 0 s.S 0, Rsp.pack 0 x 0, run_two_encoded rfl rfl, List.append_assoc _ [_] [_],
    Rsp.sout_pack .., Rsp.sout_pack .., rfl⟩

/-- Settles O32: the event is a word, and it decodes. -/
theorem stepRunsTheDecodedCommand : Obligations.StepRunsTheDecodedCommand := by
  unfold Obligations.StepRunsTheDecodedCommand
  exact fun s w rest i hd => step_of_decode_command rfl hd

/-- Settles O41: each of the three writes registers from its operands only, or leaves them. -/
theorem seedingTwiceIsSeedingOnce : Obligations.SeedingTwiceIsSeedingOnce := by
  unfold Obligations.SeedingTwiceIsSeedingOnce
  intro s x y z v i hi
  simp only [List.mem_cons, List.not_mem_nil, or_false] at hi
  rcases hi with rfl | rfl | rfl <;> exact ⟨_, _, rfl, rfl, rfl, rfl, rfl⟩

end Sys2Proof.Machine

/-! ## What the decoder reads from a word, and what the encoder writes -/

namespace Sys2Proof.Machine

/-- The operands of a command stand in the fields of the word that its opcode reads (30_encoding.md R62, R63); the
other fields are free (R64). -/
def OperandsIn (w : CmdWord) : Instr → Prop
  | .genuI | .gensI | .gendI => True
  | .genuX x | .gensX x | .gendX x | .reseed x => x = Cmd.x w
  | .setp x y z => x = Cmd.x w ∧ y = Cmd.y w ∧ z = Cmd.z w
  | .reseedi v => v = Cmd.seedValue w

/-- The decoder answers a command exactly on the words with `rsv = 0`, the command's opcode and its operands in the
fields that opcode reads (30_encoding.md R63 to R67). -/
theorem decode_eq_command_iff {w : CmdWord} {i : Instr} :
    decode w = .command i ↔ Cmd.rsv w = 0 ∧ Cmd.op w = i.opcode ∧ OperandsIn w i := by
  constructor
  · intro h
    have hlow : (Cmd.rsv w).toNat * 2 ^ 4 + (Cmd.op w).toNat = i.opcode.toNat := by
      rw [← lowHalf_eq, lowHalf_of_decode h]
    have hrsv : Cmd.rsv w = 0 := by bv_omega
    refine ⟨hrsv, by bv_omega, ?_⟩
    rw [decode_of_rsv_zero hrsv] at h
    rcases decodeOpcode_cases w with
      ⟨-, hd⟩ | ⟨-, hd⟩ | ⟨-, hd⟩ | ⟨-, hd⟩ | ⟨-, hd⟩ | ⟨-, hd⟩ | ⟨-, hd⟩ | ⟨-, hd⟩ | ⟨-, hd⟩ | ⟨-, hd⟩ <;>
      rw [hd] at h <;> cases h
    all_goals simp [OperandsIn]
  · rintro ⟨hrsv, hop, hoperands⟩
    rw [decode_of_rsv_zero hrsv, decodeOpcode, hop]
    cases i <;> simp_all [Instr.opcode, OperandsIn]

/-- Settles O15: the encoder's word has `rsv = 0`, the opcode and the operands in their fields (`decode_encode`). -/
theorem decodeOfEncode : Obligations.DecodeOfEncode := by
  unfold Obligations.DecodeOfEncode
  exact decode_encode

/-- The low 32 bits of `x`, put back into a field of 48, are `x` modulo `2^32` (30_encoding.md R62, R70). -/
theorem setWidth_seedValue (w : CmdWord) :
    (Cmd.seedValue w).setWidth 48 = BitVec.ofNat 48 ((Cmd.x w).toNat % 2 ^ 32) := by
  apply BitVec.eq_of_toNat_eq
  simp [Cmd.seedValue]

/-- Settles O16: by the command decoded, whose operands are the fields the word holds (`decode_eq_command_iff`). -/
theorem encodeOfDecodeClearsUnusedFields : Obligations.EncodeOfDecodeClearsUnusedFields := by
  unfold Obligations.EncodeOfDecodeClearsUnusedFields
  intro x y z op i h
  obtain ⟨-, hop, hoperands⟩ := decode_eq_command_iff.1 h
  rw [op_fieldsWord] at hop
  subst hop
  rw [encode, pack_eq_fieldsWord]
  cases i with
  | genuI | gensI | gendI => rfl
  | genuX a | gensX a | gendX a | reseed a =>
    have ha : a = x := hoperands.trans (x_fieldsWord ..)
    subst ha
    rfl
  | setp a b c =>
    obtain ⟨ha, hb, hc⟩ := hoperands
    rw [ha.trans (x_fieldsWord ..), hb.trans (y_fieldsWord ..), hc.trans (z_fieldsWord ..)]
    rfl
  | reseedi v =>
    have hv : v = Cmd.seedValue _ := hoperands
    rw [Instr.fieldX, hv, setWidth_seedValue, x_fieldsWord]
    rfl

/-- The legal opcodes of 30_encoding.md R63 are the opcodes of the commands. -/
theorem opcode_mem_legalLowHalves (i : Instr) : i.opcode.toNat ∈ legalLowHalves := by
  cases i <;> simp [Instr.opcode, legalLowHalves]

/-- With `rsv = 0` a legal opcode decodes to a command (30_encoding.md R65, R67). -/
theorem decode_command_of_legal {w : CmdWord} (hrsv : Cmd.rsv w = 0) (hop : (Cmd.op w).toNat ∈ legalLowHalves) :
    ∃ i, decode w = .command i := by
  rw [decode_of_rsv_zero hrsv]
  rcases decodeOpcode_cases w with
    ⟨-, hd⟩ | ⟨-, hd⟩ | ⟨-, hd⟩ | ⟨-, hd⟩ | ⟨-, hd⟩ | ⟨-, hd⟩ | ⟨-, hd⟩ | ⟨-, hd⟩ | ⟨-, hd⟩ | ⟨hreserved, -⟩
  iterate 9 exact ⟨_, hd⟩
  · simp only [legalLowHalves, List.mem_cons, List.not_mem_nil, or_false] at hop hreserved
    omega

/-- The table's match values are the legal opcodes with `rsv = 0` (30_encoding.md R63). -/
theorem legalWord_iff (w : CmdWord) :
    legalWord w = true ↔ Cmd.rsv w = 0 ∧ (Cmd.op w).toNat ∈ legalLowHalves := by
  have hlt := (Cmd.op w).isLt
  have hzero : Cmd.rsv w = 0 ↔ (Cmd.rsv w).toNat = 0 := BitVec.toNat_eq
  rw [legalWord, List.contains_iff_mem, lowHalf_eq, hzero]
  simp only [legalLowHalves, List.mem_cons, List.not_mem_nil, or_false]
  omega

/-- The decoder and the table name the same legal words (30_encoding.md R65 to R67). -/
theorem decodes_iff_legalWord (w : CmdWord) : (∃ i, decode w = .command i) ↔ legalWord w = true := by
  rw [legalWord_iff]
  constructor
  · rintro ⟨i, h⟩
    obtain ⟨hrsv, hop, -⟩ := decode_eq_command_iff.1 h
    exact ⟨hrsv, hop ▸ opcode_mem_legalLowHalves i⟩
  · exact fun ⟨hrsv, hop⟩ => decode_command_of_legal hrsv hop

/-- Settles O17: the fields give the word (`fieldsWord_fields`); the decoder agrees with the table
(`decodes_iff_legalWord`), and the table with the fields (`legalWord_iff`). -/
theorem decodingIsTotal : Obligations.DecodingIsTotal := by
  unfold Obligations.DecodingIsTotal
  refine ⟨fieldsWord_fields, fun x y z rsv op => ?_⟩
  have hlegal := legalWord_iff (fieldsWord x y z rsv op)
  rw [rsv_fieldsWord, op_fieldsWord] at hlegal
  exact ⟨(decodes_iff_legalWord _).trans hlegal, hlegal⟩

/-- Settles O18: by the state source and the output; the opcode is the command's and the operand is `x`
(`decode_eq_command_iff`). -/
theorem generateOpcodesSelectByBits : Obligations.GenerateOpcodesSelectByBits := by
  unfold Obligations.GenerateOpcodesSelectByBits
  intro x y z external k
  rw [decode_eq_command_iff, rsv_fieldsWord, op_fieldsWord]
  cases external with
  | true => cases k <;> exact ⟨rfl, rfl, (x_fieldsWord ..).symm⟩
  | false => cases k <;> exact ⟨rfl, rfl, trivial⟩

/-- The decoder does not see the fields that the opcode does not read (30_encoding.md R64). -/
theorem decode_fieldsWord_congr {x y x' y' : Val48} {z z' : Limb} (rsv : BitVec 12) {op : BitVec 4}
    (hx : op.toNat ∈ [4, 5, 6, 8, 9] → x = x') (hyz : op.toNat = 8 → y = y' ∧ z = z')
    (hseed : op.toNat = 10 → x.toNat % 2 ^ 32 = x'.toNat % 2 ^ 32) :
    decode (fieldsWord x y z rsv op) = decode (fieldsWord x' y' z' rsv op) := by
  have hseedValue : op.toNat = 10 → x.extractLsb' 0 32 = x'.extractLsb' 0 32 :=
    fun h => BitVec.eq_of_toNat_eq (by simpa using hseed h)
  simp only [decode, decodeOpcode, Cmd.seedValue, rsv_fieldsWord, op_fieldsWord, x_fieldsWord, y_fieldsWord,
    z_fieldsWord]
  split
  case isTrue => split <;> simp_all
  case isFalse => rfl

/-- A step sees the word it accepts only through the decoder (30_encoding.md R65). -/
theorem step_present_congr {w w' : CmdWord} (h : decode w = decode w') (s : State) :
    step (s.present (.command w)) = step (s.present (.command w')) := by
  rw [step_command rfl, step_command rfl, h]
  rfl

/-- Settles O20: the two words decode alike (`decode_fieldsWord_congr`), and a step sees no more of them
(`step_present_congr`). -/
theorem unusedFieldsHaveNoEffect : Obligations.UnusedFieldsHaveNoEffect := by
  unfold Obligations.UnusedFieldsHaveNoEffect
  intro s x y x' y' z z' rsv op hx hyz hseed
  exact step_present_congr (decode_fieldsWord_congr rsv hx hyz hseed) s

end Sys2Proof.Machine

/-! ## The assembler -/

namespace Sys2Proof.Machine

/-- A line assembles to the word of its command exactly if its numbers fit (30_encoding.md R70). -/
theorem assembleLine_eq_ite {l : AsmLine} {p : Prop} [Decidable p] {w : CmdWord} (hfits : l.wellFormed = true ↔ p)
    (hw : p → encode (lineInstr l) = w) : assembleLine l = if p then some w else none := by
  by_cases hp : p
  · rw [assembleLine, if_pos (hfits.2 hp), if_pos hp, hw hp]
  · rw [assembleLine, if_neg (mt hfits.1 hp), if_neg hp]

theorem fits_iff (width v : Nat) : fits width v = true ↔ v < 2 ^ width := by
  simp [fits]

/-- Numbers that fit their fields stand in the word as they are (30_encoding.md R61). -/
theorem fieldsWord_ofNat {x y z : Nat} (hx : x < 2 ^ 48) (hy : y < 2 ^ 48) (hz : z < 2 ^ 16) (op : BitVec 4) :
    fieldsWord (BitVec.ofNat 48 x) (BitVec.ofNat 48 y) (BitVec.ofNat 16 z) 0 op
      = BitVec.ofNat 128 (x * 2 ^ 80 + y * 2 ^ 32 + z * 2 ^ 16 + op.toNat) := by
  have hrsv : (0 : BitVec 12).toNat = 0 := rfl
  rw [fieldsWord, BitVec.toNat_ofNat, BitVec.toNat_ofNat, BitVec.toNat_ofNat, Nat.mod_eq_of_lt hx,
    Nat.mod_eq_of_lt hy, Nat.mod_eq_of_lt hz, hrsv, Nat.zero_mul, Nat.add_zero]

/-- The word with one operand in `x` and zero in the fields `y` and `z`. -/
theorem fieldsWord_ofNat_x {x : Nat} (hx : x < 2 ^ 48) (op : BitVec 4) :
    fieldsWord (BitVec.ofNat 48 x) 0 0 0 op = BitVec.ofNat 128 (x * 2 ^ 80 + op.toNat) := by
  simpa using fieldsWord_ofNat hx (y := 0) (z := 0) (by decide) (by decide) op

/-- RESEEDI's word: the 32-bit pattern as a number in `x`, opcode `A` (30_encoding.md R63, R70). -/
theorem encode_reseedi (v : Seed32) : encode (.reseedi v) = BitVec.ofNat 128 (v.toNat * 2 ^ 80 + 10) := by
  have hlt : v.toNat < 2 ^ 48 := by omega
  rw [encode, pack_eq_fieldsWord, Instr.fieldX, ← BitVec.ofNat_toNat]
  exact fieldsWord_ofNat_x hlt 0xA#4

/-- A line whose one number stands in `x` (30_encoding.md R70). -/
theorem assembleLine_x {l : AsmLine} {x : Nat} (op : BitVec 4) (hfits : l.wellFormed = fits 48 x)
    (hword : encode (lineInstr l) = Cmd.pack (BitVec.ofNat 48 x) 0 0 0 op) :
    assembleLine l = if x < 2 ^ 48 then some (BitVec.ofNat 128 (x * 2 ^ 80 + op.toNat)) else none := by
  refine assembleLine_eq_ite (by rw [hfits, fits_iff]) fun hx => ?_
  rw [hword, pack_eq_fieldsWord, fieldsWord_ofNat_x hx]

theorem assembleLine_setp (x y z : Nat) :
    assembleLine (.setp x y z) =
      if x < 2 ^ 48 ∧ y < 2 ^ 48 ∧ z < 2 ^ 16
        then some (BitVec.ofNat 128 (x * 2 ^ 80 + y * 2 ^ 32 + z * 2 ^ 16 + 8)) else none := by
  refine assembleLine_eq_ite ?_ fun ⟨hx, hy, hz⟩ => ?_
  · simp [AsmLine.wellFormed, fits_iff, and_assoc]
  · rw [encode, pack_eq_fieldsWord]
    exact fieldsWord_ofNat hx hy hz 0x8#4

theorem assembleLine_reseedi_hex (x : Nat) :
    assembleLine (.reseedi (.hex x)) =
      if x < 2 ^ 32 then some (BitVec.ofNat 128 (x * 2 ^ 80 + 10)) else none := by
  refine assembleLine_eq_ite (fits_iff 32 x) fun hx => ?_
  rw [lineInstr, encode_reseedi, SeedLiteral.pattern, BitVec.toNat_ofNat, Nat.mod_eq_of_lt hx]

/-- A decimal seed is placed as its 32-bit two's-complement pattern (30_encoding.md R70, 00_scope.md R10). -/
theorem assembleLine_reseedi_dec (n : Int) :
    assembleLine (.reseedi (.dec n)) =
      if -2 ^ 31 ≤ n ∧ n ≤ 2 ^ 31 - 1
        then some (BitVec.ofNat 128 ((n % 2 ^ 32).toNat * 2 ^ 80 + 10)) else none := by
  refine assembleLine_eq_ite ?_ fun _ => ?_
  · simp only [AsmLine.wellFormed, SeedLiteral.wellFormed, Bool.and_eq_true, decide_eq_true_eq]
    omega
  · rw [lineInstr, encode_reseedi, SeedLiteral.pattern, bitsI32, BitVec.toNat_ofInt]
    rfl

/-- Settles O21: by the mnemonic; a line with one number in `x` (`assembleLine_x`), SETP, and RESEEDI with its two
kinds of seed. -/
theorem assemblerPlacesOperandsOrRefuses : Obligations.AssemblerPlacesOperandsOrRefuses := by
  unfold Obligations.AssemblerPlacesOperandsOrRefuses
  exact ⟨by decide, by decide, by decide, fun x y z n =>
    ⟨assembleLine_x 0x4#4 rfl rfl, assembleLine_x 0x5#4 rfl rfl, assembleLine_x 0x6#4 rfl rfl,
      assembleLine_setp x y z, assembleLine_x 0x9#4 rfl rfl, assembleLine_reseedi_hex x, assembleLine_reseedi_dec n⟩⟩

/-- Settles O22: the two lines of R72 are closed texts. -/
theorem encodingExampleAssembles : Obligations.EncodingExampleAssembles := by
  unfold Obligations.EncodingExampleAssembles
  decide

end Sys2Proof.Machine

/-! ## The form of the responses -/

namespace Sys2Proof.Machine

/-- The double output of a nonzero state lies between the patterns of `2^-48` and `1 - 2^-48`: its exponent field is
975 to 1022, and its fraction ends in five zeros or more (41_generate.md R92). -/
theorem toNat_extF64_bounds {S : Val48} (h : S ≠ 0) :
    0x3CF0000000000000 ≤ (extF64 S).toNat ∧ (extF64 S).toNat ≤ 0x3FEFFFFFFFFFFFE0 := by
  obtain ⟨-, -, hp⟩ := msbIndex_bounds h
  have hfrac : 2 ^ 5 ∣ S.toNat * 2 ^ (52 - msbIndex S) % 2 ^ 52 :=
    (Nat.dvd_mod_iff (by decide)).2 (Dvd.dvd.mul_left (Nat.pow_dvd_pow 2 (by omega)) _)
  rw [toNat_extF64 h]
  omega

/-- What the `res` field of a response holds: an integer below `2^32`, or a double from `2^-48` to `1 - 2^-48`
(30_encoding.md R69, 41_generate.md R92). -/
def ResultOk (res : ResWord) : Prop :=
  res.toNat < 2 ^ 32 ∨ (0x3CF0000000000000 ≤ res.toNat ∧ res.toNat ≤ 0x3FEFFFFFFFFFFFE0)

theorem resultOk_zero : ResultOk 0 := .inl (by decide)

theorem resultOk_extract (k : OutputKind) (S : Val48) : ResultOk (extract k S) := by
  have hlt := S.isLt
  cases k with
  | u31 => exact .inl (by rw [toNat_extract_u31]; omega)
  | s32 => exact .inl (by rw [toNat_extract_s32]; omega)
  | f64 =>
    by_cases h : S = 0
    · subst h
      exact resultOk_zero
    · exact .inr (toNat_extF64_bounds h)

/-- The response of a legal command has its form if its result has (30_encoding.md R68). -/
theorem responseOk_pack_of_resultOk (sout : Val48) {res : ResWord} (h : ResultOk res) :
    responseOk (Rsp.pack 0 sout res) = true := by
  simpa [responseOk, ResultOk] using h

/-- The response of an illegal command has its form (60_exceptions.md R121). -/
theorem responseOk_illegal : responseOk (Rsp.pack 1 0 0) = true := by decide

/-- A command delivers one response: `err = 0`, and a result of the right form (60_exceptions.md R120). -/
theorem exec_response {i : Instr} {s t : State} (h : exec i s = .next t) :
    ∃ sout res, t.outbox = s.outbox ++ [Rsp.pack 0 sout res] ∧ ResultOk res := by
  cases i with
  | genuI | gensI | gendI | genuX x | gensX x | gendX x => cases h; exact ⟨_, _, rfl, resultOk_extract ..⟩
  | setp x y z | reseed x | reseedi v => cases h; exact ⟨_, _, rfl, resultOk_zero⟩

/-- A step delivers nothing, or one response of the right form. -/
theorem step_response {s t : State} (h : step s = .next t) :
    t.outbox = s.outbox ∨ ∃ r, t.outbox = s.outbox ++ [r] ∧ responseOk r = true := by
  match hin : s.inbox with
  | [] =>
    rw [step_idle hin] at h
    cases h
    exact .inl rfl
  | .reset :: rest =>
    rw [step_reset hin] at h
    cases h
    exact .inl rfl
  | .command w :: rest =>
    cases hd : decode w with
    | command i =>
      rw [step_of_decode_command hin hd] at h
      obtain ⟨sout, res, hout, hres⟩ := exec_response h
      exact .inr ⟨_, hout, responseOk_pack_of_resultOk sout hres⟩
    | illegal c =>
      rw [step_of_decode_illegal hin hd] at h
      cases h
      exact .inr ⟨_, rfl, responseOk_illegal⟩

/-- Settles O50: the delivered responses stay, and what a step adds has the form (`step_response`). -/
theorem stepKeepsResponsesOk : Obligations.StepKeepsResponsesOk := by
  unfold Obligations.StepKeepsResponsesOk
  intro s t hs hstep
  rcases step_response hstep with hout | ⟨r, hout, hr⟩
  · rwa [State.ResponsesOk, hout]
  · rw [State.ResponsesOk, hout, List.all_append, hs]
    simpa using hr

end Sys2Proof.Machine

/-! ## The recurrence and its two decompositions -/

namespace Sys2Proof.Machine

/-- The 48-bit product and the zero-extended addend already reduce modulo `2^48` (40_iteration.md R80, R85). -/
theorem advance_eq_mul_add (S A : Val48) (C : Limb) : advance S A C = S * A + C.setWidth 48 := by
  apply BitVec.eq_of_toNat_eq
  simp [toNat_advance]

/-- Settles O7: the advance as a number (`toNat_advance`) and as a word (`advance_eq_mul_add`). -/
theorem advanceIsTheRecurrence : Obligations.AdvanceIsTheRecurrence := by
  unfold Obligations.AdvanceIsTheRecurrence
  exact fun S A C => ⟨toNat_advance S A C, advance_eq_mul_add S A C⟩

/-- A zero product leaves the addend (40_iteration.md R81). -/
theorem toNat_advance_of_mul_eq_zero {S A : Val48} (C : Limb) (h : S.toNat * A.toNat = 0) :
    (advance S A C).toNat = C.toNat := by
  rw [toNat_advance, h]
  omega

theorem advance_one_zero (S : Val48) : advance S 1 0 = S := by
  rw [advance_eq_mul_add]
  simp

/-- The multiplier `2^48 - 1` acts as `-1` (40_iteration.md R81). -/
theorem toNat_advance_allOnes (S : Val48) (C : Limb) :
    (advance S 0xFFFFFFFFFFFF#48 C).toNat = (2 ^ 48 - S.toNat + C.toNat) % 2 ^ 48 := by
  have hA : (0xFFFFFFFFFFFF#48).toNat = 2 ^ 48 - 1 := rfl
  rw [toNat_advance, hA]
  omega

/-- Settles O8: the exact product is below `2^48 * 2^48`; every other clause reads the advance as a number. -/
theorem advanceCornerCases : Obligations.AdvanceCornerCases := by
  unfold Obligations.AdvanceCornerCases
  refine ⟨fun S A => ?_, fun S A C => ?_, fun S C => toNat_advance_of_mul_eq_zero C (Nat.mul_zero _),
    advance_one_zero, toNat_advance_allOnes, fun A C => toNat_advance_of_mul_eq_zero C (Nat.zero_mul _),
    by decide, by decide⟩
  · exact Nat.mul_lt_mul'' (c := 2 ^ 48) (d := 2 ^ 48) S.isLt A.isLt
  · rw [toNat_advance, Nat.mod_add_mod]

/-- The document's `lo` is the low 32 bits of the state (40_iteration.md R82). -/
theorem splitLo_eq (S : Val48) : splitLo S = S.toNat % 2 ^ 32 := by
  have hlt := (limb0 S).isLt
  rw [splitLo, Nat.lor_comm, ← Nat.shiftLeft_add_eq_or_of_lt hlt, limb0_toNat, limb1_toNat, Nat.shiftLeft_eq]
  omega

theorem advanceSplit_eq (S A : Val48) (C : Limb) :
    advanceSplit S A C =
      (((S.toNat % 2 ^ 32) * A.toNat) % 2 ^ 48
        + (((S.toNat / 2 ^ 32) * (A.toNat % 2 ^ 16)) % 2 ^ 16 * 2 ^ 32) % 2 ^ 48 + C.toNat) % 2 ^ 48 := by
  rw [advanceSplit, splitLo_eq, limb2_toNat, limb0_toNat, Nat.shiftLeft_eq]

/-- At weight `2^32` only the low 16 bits of a product count modulo `2^48`, and only those of its factor
(40_iteration.md R82). -/
theorem mul_mod_mul_modEq (h a : Nat) : h * (a % 2 ^ 16) % 2 ^ 16 * 2 ^ 32 ≡ h * a * 2 ^ 32 [MOD 2 ^ 48] := by
  rw [Nat.mul_mod_mod]
  exact (Nat.mod_modEq (h * a) (2 ^ 16)).mul_right' (2 ^ 32)

/-- The split of a product at bit 32 of the first factor, modulo `2^48` (40_iteration.md R82). -/
theorem split_mul_modEq (s a : Nat) :
    s % 2 ^ 32 * a % 2 ^ 48 + s / 2 ^ 32 * (a % 2 ^ 16) % 2 ^ 16 * 2 ^ 32 % 2 ^ 48 ≡ s * a [MOD 2 ^ 48] :=
  calc s % 2 ^ 32 * a % 2 ^ 48 + s / 2 ^ 32 * (a % 2 ^ 16) % 2 ^ 16 * 2 ^ 32 % 2 ^ 48
    _ ≡ s % 2 ^ 32 * a + s / 2 ^ 32 * a * 2 ^ 32 [MOD 2 ^ 48] :=
      (Nat.mod_modEq ..).add ((Nat.mod_modEq ..).trans (mul_mod_mul_modEq ..))
    _ = (s % 2 ^ 32 + 2 ^ 32 * (s / 2 ^ 32)) * a := by ring
    _ = s * a := by rw [Nat.mod_add_div]

/-- Settles O9: the split in numbers (`advanceSplit_eq`) is the product modulo `2^48` (`split_mul_modEq`). -/
theorem splitComputesAdvance : Obligations.SplitComputesAdvance := by
  unfold Obligations.SplitComputesAdvance
  refine fun S A C => ⟨?_, advanceSplit_eq S A C⟩
  rw [advanceSplit_eq, toNat_advance]
  exact (split_mul_modEq S.toNat A.toNat).add_right C.toNat

/-- The limbs of a value, at their weights, make it (10_state.md R21). -/
theorem toNat_eq_limbs (v : Val48) :
    v.toNat = (limb2 v).toNat * 2 ^ 32 + (limb1 v).toNat * 2 ^ 16 + (limb0 v).toNat := by
  rw [← ofLimbs_toNat, ofLimbs_limbs]

/-- A product of two limbs is at most `0xFFFF * 0xFFFF`. -/
theorem limb_mul_le (a b : Limb) : a.toNat * b.toNat ≤ 0xFFFE0001 :=
  Nat.mul_le_mul (Nat.le_of_lt_succ a.isLt) (Nat.le_of_lt_succ b.isLt)

theorem acc0_le (S A : Val48) (C : Limb) : acc0 S A C ≤ 0xFFFF0000 := by
  have h00 := limb_mul_le (limb0 A) (limb0 S)
  rw [acc0]
  omega

theorem acc1_le (S A : Val48) (C : Limb) : acc1 S A C ≤ 0x1FFFD0001 := by
  have hcarry := acc0_le S A C
  have h01 := limb_mul_le (limb0 A) (limb1 S)
  have h10 := limb_mul_le (limb1 A) (limb0 S)
  rw [acc1, Nat.shiftRight_eq_div_pow]
  omega

theorem acc2_le (S A : Val48) (C : Limb) : acc2 S A C ≤ 0x2FFFC0000 := by
  have hcarry := acc1_le S A C
  have h02 := limb_mul_le (limb0 A) (limb2 S)
  have h11 := limb_mul_le (limb1 A) (limb1 S)
  have h20 := limb_mul_le (limb2 A) (limb0 S)
  rw [acc2, Nat.shiftRight_eq_div_pow]
  omega

/-- Keeping 16 bits of each accumulator and carrying the rest to the next column gives the sum of the three columns
at their weights, modulo `2^48` (40_iteration.md R83). -/
theorem toNat_advanceLimbs (S A : Val48) (C : Limb) :
    (advanceLimbs S A C).toNat =
      ((limb0 A).toNat * (limb0 S).toNat
        + ((limb0 A).toNat * (limb1 S).toNat + (limb1 A).toNat * (limb0 S).toNat) * 2 ^ 16
        + ((limb0 A).toNat * (limb2 S).toNat + (limb1 A).toNat * (limb1 S).toNat
          + (limb2 A).toNat * (limb0 S).toNat) * 2 ^ 32
        + C.toNat) % 2 ^ 48 := by
  simp only [advanceLimbs, ofLimbs_toNat, BitVec.toNat_ofNat, acc2, acc1, acc0, Nat.shiftRight_eq_div_pow]
  omega

/-- The three columns of products that the schedule adds, at their weights, make the product modulo `2^48`: the
other products have weight `2^48` and above (40_iteration.md R83). -/
theorem columns_modEq_mul (x2 x1 x0 a2 a1 a0 : Nat) :
    a0 * x0 + (a0 * x1 + a1 * x0) * 2 ^ 16 + (a0 * x2 + a1 * x1 + a2 * x0) * 2 ^ 32
      ≡ (x2 * 2 ^ 32 + x1 * 2 ^ 16 + x0) * (a2 * 2 ^ 32 + a1 * 2 ^ 16 + a0) [MOD 2 ^ 48] := by
  have hsplit : (x2 * 2 ^ 32 + x1 * 2 ^ 16 + x0) * (a2 * 2 ^ 32 + a1 * 2 ^ 16 + a0)
      = a0 * x0 + (a0 * x1 + a1 * x0) * 2 ^ 16 + (a0 * x2 + a1 * x1 + a2 * x0) * 2 ^ 32
        + 2 ^ 48 * (a1 * x2 + a2 * x1 + a2 * x2 * 2 ^ 16) := by ring
  rw [hsplit]
  exact (Nat.add_mul_mod_self_left ..).symm

/-- The limb schedule is the recurrence (40_iteration.md R83). -/
theorem advanceLimbs_eq_advance (S A : Val48) (C : Limb) : advanceLimbs S A C = advance S A C := by
  apply BitVec.eq_of_toNat_eq
  rw [toNat_advanceLimbs, toNat_advance, toNat_eq_limbs S, toNat_eq_limbs A]
  exact (columns_modEq_mul ..).add_right C.toNat

/-- Settles O10: the schedule is the recurrence (`advanceLimbs_eq_advance`); each accumulator's bound follows from the
bound of the one before, and the all-ones input is closed. -/
theorem limbScheduleComputesAdvance : Obligations.LimbScheduleComputesAdvance := by
  unfold Obligations.LimbScheduleComputesAdvance
  exact ⟨fun S A C => ⟨advanceLimbs_eq_advance S A C, acc0_le S A C, acc1_le S A C, acc2_le S A C⟩,
    by decide, by decide, by decide⟩

end Sys2Proof.Machine

/-! ## The integer outputs -/

namespace Sys2Proof.Machine

/-- The document's formula for the unsigned output (41_generate.md R90). -/
theorem toNat_extU31_limbs (S : Val48) :
    (extU31 S).toNat = ((limb2 S).toNat <<< 15) ||| ((limb1 S).toNat >>> 1) := by
  have h1 := (limb1 S).isLt
  rw [← Nat.shiftLeft_add_eq_or_of_lt (by omega), toNat_extU31, limb2_toNat, limb1_toNat, Nat.shiftLeft_eq]
  omega

/-- The document's formula for the signed output (41_generate.md R91). -/
theorem toNat_extS32_limbs (S : Val48) :
    (extS32 S).toNat = ((limb2 S).toNat <<< 16) ||| (limb1 S).toNat := by
  have h1 := (limb1 S).isLt
  rw [← Nat.shiftLeft_add_eq_or_of_lt h1, toNat_extS32, limb2_toNat, limb1_toNat, Nat.shiftLeft_eq]
  omega

/-- Settles O11: the output as a number (`toNat_extU31`); it is the high part of `S` above 17 free bits. -/
theorem unsignedOutputIsTheTopBits : Obligations.UnsignedOutputIsTheTopBits := by
  unfold Obligations.UnsignedOutputIsTheTopBits
  exact fun S => ⟨toNat_extU31_limbs S, toNat_extU31 S, Nat.le_sub_one_of_lt (extU31 S).isLt,
    fun _ => BitVec.extractLsb'_append_eq_left⟩

/-- The spec's two's-complement reading (00_scope.md R10) is the library's. -/
theorem asI32_eq_toInt (b : BitVec 32) : asI32 b = b.toInt := by
  rw [asI32, BitVec.toInt_eq_toNat_cond]
  split <;> split <;> omega

/-- The sign of the signed output is bit 47 of the state (41_generate.md R91). -/
theorem msb_extS32 (S : Val48) : (extS32 S).msb = S.getLsbD 47 := by
  rw [BitVec.msb_eq_getLsbD_last, extS32, BitVec.getLsbD_extractLsb']
  rfl

theorem asI32_extS32_neg_iff (S : Val48) : asI32 (extS32 S) < 0 ↔ S.getLsbD 47 = true := by
  rw [← msb_extS32, BitVec.msb_eq_toInt, decide_eq_true_iff, asI32_eq_toInt]

/-- `bits_i32` undoes `as_i32` (00_scope.md R10). -/
theorem bitsI32_asI32 (b : BitVec 32) : bitsI32 (asI32 b) = b := by
  rw [bitsI32, asI32_eq_toInt, BitVec.ofInt_toInt]

theorem extS32_ofLimbs (S : Val48) (s0 : Limb) : extS32 (ofLimbs (limb2 S) (limb1 S) s0) = extS32 S := by
  have h0 := s0.isLt
  apply BitVec.eq_of_toNat_eq
  rw [toNat_extS32, toNat_extS32, ofLimbs_toNat, limb2_toNat, limb1_toNat]
  omega

/-- Settles O12: the pattern as a number (`toNat_extS32`), and its reading as two's complement (`asI32_eq_toInt`). -/
theorem signedOutputIsTheTopBits : Obligations.SignedOutputIsTheTopBits := by
  unfold Obligations.SignedOutputIsTheTopBits
  intro S
  have hread := asI32_eq_toInt (extS32 S)
  refine ⟨toNat_extS32_limbs S, toNat_extS32 S, hread, ?_, ?_, asI32_extS32_neg_iff S, bitsI32_asI32 _, ?_,
    extS32_ofLimbs S⟩
  · rw [hread]
    exact BitVec.le_toInt _
  · rw [hread]
    exact Int.le_sub_one_of_lt BitVec.toInt_lt
  · rw [toNat_extract_s32, toNat_extS32]

/-! ## The double output -/

/-- A state between two powers of two has its leading 1 at the lower one's index (41_generate.md R92). -/
theorem msbIndex_eq {S : Val48} {p : Nat} (hlow : 2 ^ p ≤ S.toNat) (hhigh : S.toNat < 2 ^ (p + 1)) :
    S ≠ 0 ∧ msbIndex S = p := by
  have hpos : S.toNat ≠ 0 := ((Nat.two_pow_pos p).trans_le hlow).ne'
  exact ⟨fun h => hpos (h ▸ rfl), (Nat.log2_eq_iff hpos).2 ⟨hlow, hhigh⟩⟩

/-- The three fields of a binary64 pattern with sign bit 0, by its number (93_implementation_defined.md G3). -/
theorem f64_fields {b : BitVec 64} {e f : Nat} (he : e < 2 ^ 11) (hf : f < 2 ^ 52) (hb : b.toNat = e * 2 ^ 52 + f) :
    b.extractLsb' 63 1 = 0 ∧ (b.extractLsb' 52 11).toNat = e ∧ (b.extractLsb' 0 52).toNat = f := by
  refine ⟨BitVec.eq_of_toNat_eq ?_, ?_, ?_⟩ <;> rw [BitVec.extractLsb'_toNat, hb, Nat.shiftRight_eq_div_pow]
  · have hzero : (0 : BitVec 1).toNat = 0 := rfl
    omega
  · omega
  · omega

/-- A binary64 pattern with sign bit 0 and the exponent field of a normal number (93_implementation_defined.md G3). -/
theorem f64Value_of_normal {b : BitVec 64} {e f : Nat} (hpos : 0 < e) (he : e < 2047) (hf : f < 2 ^ 52)
    (hb : b.toNat = e * 2 ^ 52 + f) : f64Value b = some (((2 ^ 52 + f : Nat) : ℚ) * 2 ^ e / 2 ^ 1075) := by
  obtain ⟨hsign, hexp, hfrac⟩ := f64_fields (by omega) hf hb
  have hplus : b.extractLsb' 63 1 = 0#1 := hsign
  simp only [f64Value, hexp, hfrac]
  rw [if_neg he.ne, if_neg hpos.ne', if_pos hplus, one_mul]

/-- The leading 1 of a nonzero state, moved to bit 52, is the implicit 1 above the fraction (41_generate.md R92). -/
theorem implicit_one_add_fraction {S : Val48} (h : S ≠ 0) :
    2 ^ 52 + S.toNat * 2 ^ (52 - msbIndex S) % 2 ^ 52 = S.toNat * 2 ^ (52 - msbIndex S) := by
  obtain ⟨hlow, hhigh, hp⟩ := msbIndex_bounds h
  have hle := Nat.mul_le_mul_right (2 ^ (52 - msbIndex S)) hlow
  have hlt := Nat.mul_lt_mul_of_pos_right hhigh (Nat.two_pow_pos (52 - msbIndex S))
  have hexponent : msbIndex S + (52 - msbIndex S) = 52 := by omega
  rw [← pow_add, hexponent] at hle
  rw [← pow_add, Nat.add_right_comm, hexponent] at hlt
  omega

/-- The double output is exact (41_generate.md R92). -/
theorem f64Value_extF64 (S : Val48) : f64Value (extF64 S) = some ((S.toNat : ℚ) / 2 ^ 48) := by
  by_cases h : S = 0
  · subst h
    simp [f64Value]
  · obtain ⟨-, -, hp⟩ := msbIndex_bounds h
    have hexponents : 52 - msbIndex S + (975 + msbIndex S) = 1027 := by omega
    have hscale : (2 : ℚ) ^ (52 - msbIndex S) * 2 ^ (975 + msbIndex S) / 2 ^ 1075 = (2 ^ 48)⁻¹ := by
      rw [← pow_add, hexponents, pow_add 2 1027 48, div_mul_cancel_left₀ (pow_ne_zero _ two_ne_zero)]
    rw [f64Value_of_normal (by omega) (by omega) (Nat.mod_lt _ (Nat.two_pow_pos 52)) (toNat_extF64 h),
      implicit_one_add_fraction h, Nat.cast_mul, Nat.cast_pow, Nat.cast_ofNat, mul_assoc, mul_div_assoc, hscale,
      ← div_eq_mul_inv]

/-- The pattern is R92's: exponent 975 to 1022, the left-aligned fraction, sign 0. -/
theorem extF64_pattern {S : Val48} {p : Nat} (hlow : 2 ^ p ≤ S.toNat) (hhigh : S.toNat < 2 ^ (p + 1)) :
    p ≤ 47 ∧ (extF64 S).toNat = (1023 + p - 48) * 2 ^ 52 + (S.toNat * 2 ^ (52 - p)) % 2 ^ 52 ∧
    ((extF64 S).extractLsb' 63 1) = 0 ∧
    ((extF64 S).extractLsb' 52 11).toNat = 1023 + p - 48 ∧ 975 ≤ 1023 + p - 48 ∧ 1023 + p - 48 ≤ 1022 := by
  obtain ⟨hne, rfl⟩ := msbIndex_eq hlow hhigh
  obtain ⟨-, -, hp⟩ := msbIndex_bounds hne
  have hexponent : 975 + msbIndex S = 1023 + msbIndex S - 48 := by omega
  have hpattern := toNat_extF64 hne
  rw [hexponent] at hpattern
  obtain ⟨hsign, hexp, -⟩ := f64_fields (by omega) (Nat.mod_lt _ (Nat.two_pow_pos 52)) hpattern
  exact ⟨by omega, hpattern, hsign, hexp, by omega, by omega⟩

theorem toNat_extF64_le (S : Val48) : (extF64 S).toNat ≤ 0x3FEFFFFFFFFFFFE0 := by
  by_cases h : S = 0
  · subst h
    decide
  · exact (toNat_extF64_bounds h).2

/-- Equal patterns have equal values, and the value gives the state back. -/
theorem extF64_injective : Function.Injective extF64 := by
  intro S T h
  have hvalue := congrArg f64Value h
  rw [f64Value_extF64, f64Value_extF64, Option.some_inj, div_left_inj' (by norm_num), Nat.cast_inj] at hvalue
  exact BitVec.eq_of_toNat_eq hvalue

/-- Settles O13: the value (`f64Value_extF64`), the pattern (`extF64_pattern`) and its bound (`toNat_extF64_le`). -/
theorem doubleOutputIsExact : Obligations.DoubleOutputIsExact := by
  unfold Obligations.DoubleOutputIsExact
  exact ⟨extF64_zero, f64Value_extF64, fun _ _ => extF64_pattern, toNat_extF64_le, by decide, extF64_injective⟩

/-- Scaling by `2^k` and rounding down leaves the bits from `j` on. -/
theorem floor_div_two_pow_mul (n j k : Nat) : ⌊(n : ℚ) / 2 ^ (j + k) * 2 ^ k⌋ = ((n / 2 ^ j : Nat) : ℤ) := by
  have hscale : (n : ℚ) / 2 ^ (j + k) * 2 ^ k = (n : ℚ) / (2 ^ j : Nat) := by
    rw [pow_add, Nat.cast_pow, Nat.cast_ofNat]
    field_simp
  rw [hscale, Rat.floor_natCast_div_natCast, Int.natCast_ediv]

/-- Settles O14: the integer outputs as numbers, and the floors of the exact value (`floor_div_two_pow_mul`). -/
theorem outputsOfOneStateAgree : Obligations.OutputsOfOneStateAgree := by
  unfold Obligations.OutputsOfOneStateAgree
  intro S
  refine ⟨?_, _, f64Value_extF64 S, ?_, ?_⟩
  · rw [toNat_extU31, toNat_extS32, Nat.shiftRight_eq_div_pow, Nat.div_div_eq_div_mul]
    rfl
  · rw [toNat_extS32]
    exact (floor_div_two_pow_mul S.toNat 16 32).symm
  · rw [toNat_extU31]
    exact (floor_div_two_pow_mul S.toNat 17 31).symm

/-! ## The six generate commands -/

/-- A delivered response with `err = 0`, read as the number R68 gives it (30_encoding.md R68). -/
theorem answers_of_pack {s t : State} {sout : Val48} {res : ResWord}
    (h : t.outbox = s.outbox ++ [Rsp.pack 0 sout res]) : Answers s t 0 sout.toNat res.toNat :=
  ⟨_, h, Rsp.toNat_pack 0 sout res⟩

/-- An internal generate command advances `S`, answers from the new `S`, and leaves everything else (41_generate.md
R95 to R97). -/
theorem exec_internalCommand_effect (k : OutputKind) (s : State) :
    ∃ t : State, exec (internalCommand k) s = .next t ∧
      t.S.toNat = (s.S.toNat * s.A.toNat + s.C.toNat) % 2 ^ 48 ∧
      t.A = s.A ∧ t.C = s.C ∧ t.inbox = s.inbox ∧ Answers s t 0 0 (extract k t.S).toNat :=
  ⟨_, exec_internalCommand k s, toNat_advance .., rfl, rfl, rfl, answers_of_pack (sout := 0) rfl⟩

/-- An external generate command answers the advance of its operand and the output from it, and leaves every register
(41_generate.md R98 to R101). -/
theorem exec_externalCommand_effect (k : OutputKind) (x : Val48) (s : State) :
    ∃ (t : State) (X' : Val48), exec (externalCommand k x) s = .next t ∧
      X'.toNat = (x.toNat * s.A.toNat + s.C.toNat) % 2 ^ 48 ∧
      t.S = s.S ∧ t.A = s.A ∧ t.C = s.C ∧ t.inbox = s.inbox ∧ Answers s t 0 X'.toNat (extract k X').toNat :=
  ⟨_, _, exec_externalCommand k x s, toNat_advance .., rfl, rfl, rfl, rfl, answers_of_pack rfl⟩

/-- An internal command of an output that is the state's bits from `n` on (41_generate.md R95, R96). -/
theorem exec_internalCommand_topBits {k : OutputKind} {n : Nat} (hk : ∀ S, (extract k S).toNat = S.toNat / 2 ^ n)
    (s : State) :
    ∃ t : State, exec (internalCommand k) s = .next t ∧
      t.S.toNat = (s.S.toNat * s.A.toNat + s.C.toNat) % 2 ^ 48 ∧
      t.A = s.A ∧ t.C = s.C ∧ t.inbox = s.inbox ∧ Answers s t 0 0 (t.S.toNat / 2 ^ n) := by
  simpa only [hk] using exec_internalCommand_effect k s

/-- An external command of an output that is the state's bits from `n` on (41_generate.md R98, R99). -/
theorem exec_externalCommand_topBits {k : OutputKind} {n : Nat} (hk : ∀ S, (extract k S).toNat = S.toNat / 2 ^ n)
    (x : Val48) (s : State) :
    ∃ t : State, exec (externalCommand k x) s = .next t ∧
      t.S = s.S ∧ t.A = s.A ∧ t.C = s.C ∧ t.inbox = s.inbox ∧
      Answers s t 0 ((x.toNat * s.A.toNat + s.C.toNat) % 2 ^ 48)
        ((x.toNat * s.A.toNat + s.C.toNat) % 2 ^ 48 / 2 ^ n) := by
  obtain ⟨t, X', hexec, hX, hS, hA, hC, hinbox, hanswers⟩ := exec_externalCommand_effect k x s
  rw [hk, hX] at hanswers
  exact ⟨t, hexec, hS, hA, hC, hinbox, hanswers⟩

/-- Settles O23: the internal command of the output `S[47:17]`, selected by opcode (`generateOpcodesSelectByBits`). -/
theorem genuIAdvancesAndAnswers : Obligations.GenuIAdvancesAndAnswers := by
  unfold Obligations.GenuIAdvancesAndAnswers
  exact ⟨fun x y z => generateOpcodesSelectByBits x y z false .u31, exec_internalCommand_topBits toNat_extract_u31⟩

/-- Settles O24: the internal command of the output `S[47:16]`, selected by opcode (`generateOpcodesSelectByBits`). -/
theorem gensIAdvancesAndAnswers : Obligations.GensIAdvancesAndAnswers := by
  unfold Obligations.GensIAdvancesAndAnswers
  exact ⟨fun x y z => generateOpcodesSelectByBits x y z false .s32, exec_internalCommand_topBits toNat_extract_s32⟩

/-- Settles O25: the internal command of the double output, which the opcode selects
(`generateOpcodesSelectByBits`) and whose value is exact (`f64Value_extF64`). -/
theorem gendIAdvancesAndAnswers : Obligations.GendIAdvancesAndAnswers := by
  unfold Obligations.GendIAdvancesAndAnswers
  refine ⟨fun x y z => generateOpcodesSelectByBits x y z false .f64, fun s => ?_⟩
  obtain ⟨t, hexec, hS, hA, hC, hinbox, hanswers⟩ := exec_internalCommand_effect .f64 s
  exact ⟨t, hexec, hS, hA, hC, hinbox, hanswers, f64Value_extF64 t.S⟩

/-- Settles O26: the external command of the output `S[47:17]`, selected by opcode (`generateOpcodesSelectByBits`). -/
theorem genuXAnswersFromItsOperand : Obligations.GenuXAnswersFromItsOperand := by
  unfold Obligations.GenuXAnswersFromItsOperand
  exact ⟨fun x y z => generateOpcodesSelectByBits x y z true .u31, exec_externalCommand_topBits toNat_extract_u31⟩

/-- Settles O27: the external command of the output `S[47:16]`, selected by opcode (`generateOpcodesSelectByBits`). -/
theorem gensXAnswersFromItsOperand : Obligations.GensXAnswersFromItsOperand := by
  unfold Obligations.GensXAnswersFromItsOperand
  exact ⟨fun x y z => generateOpcodesSelectByBits x y z true .s32, exec_externalCommand_topBits toNat_extract_s32⟩

/-- Settles O28: the external command of the double output, which the opcode selects
(`generateOpcodesSelectByBits`) and whose value is exact (`f64Value_extF64`). -/
theorem gendXAnswersFromItsOperand : Obligations.GendXAnswersFromItsOperand := by
  unfold Obligations.GendXAnswersFromItsOperand
  refine ⟨fun x y z => generateOpcodesSelectByBits x y z true .f64, fun x s => ?_⟩
  obtain ⟨t, X', hexec, hX, hS, hA, hC, hinbox, hanswers⟩ := exec_externalCommand_effect .f64 x s
  exact ⟨t, X', hexec, hX, hS, hA, hC, hinbox, hanswers, f64Value_extF64 X'⟩

/-- Settles O37: the response is made of the operand and the parameters alone (`generateExternal_fields`). -/
theorem externalCommandsDoNotReadS : Obligations.ExternalCommandsDoNotReadS := by
  unfold Obligations.ExternalCommandsDoNotReadS
  intro k x v s
  refine ⟨_, _, exec_externalCommand k x s, exec_externalCommand k x { s with S := v }, ?_⟩
  rw [generateExternal_fields, generateExternal_fields]
  exact ⟨rfl, rfl, rfl⟩

end Sys2Proof.Machine

/-! ## The three seed and parameter commands -/

namespace Sys2Proof.Machine

/-- A response with every field zero is the zero word (30_encoding.md R68). -/
theorem Rsp.pack_zero : Rsp.pack 0 0 0 = 0#128 := by decide

/-- With `rsv = 0` and a command's opcode, the word decodes to that command with its operands from the fields
(30_encoding.md R63). -/
theorem decode_fieldsWord {x y : Val48} {z : Limb} {i : Instr} (h : OperandsIn (fieldsWord x y z 0 i.opcode) i) :
    decode (fieldsWord x y z 0 i.opcode) = .command i :=
  decode_eq_command_iff.2 ⟨rsv_fieldsWord .., op_fieldsWord .., h⟩

/-- SETP, field by field (42_seed_params.md R110). -/
theorem exec_setp (x y : Val48) (z : Limb) (s : State) :
    exec (.setp x y z) s =
      .next { s with S := x, A := y, C := z, outbox := s.outbox ++ [Rsp.pack 0 0 0] } := rfl

/-- RESEED, field by field: the response carries the `S` from before the write (42_seed_params.md R111). -/
theorem exec_reseed (x : Val48) (s : State) :
    exec (.reseed x) s =
      .next { s with
        S := x
        A := Config.A_DEF
        C := Config.C_DEF
        outbox := s.outbox ++ [Rsp.pack 0 s.S 0] } := rfl

/-- RESEEDI, field by field, for either value of the switch, which governs the parameters alone (42_seed_params.md
R112). -/
theorem reseediWith_fields (resetsParams : Bool) (v : Seed32) (s : State) :
    reseediWith resetsParams v s =
      { s with
        S := seedState v
        A := if resetsParams then Config.A_DEF else s.A
        C := if resetsParams then Config.C_DEF else s.C
        outbox := s.outbox ++ [Rsp.pack 0 0 0] } := by
  cases resetsParams <;> rfl

/-- RESEEDI reads the low 32 bits of the field `x`, whatever the other bits are (30_encoding.md R62). -/
theorem seedValue_fieldsWord_eq_ofNat (x y : Val48) (z : Limb) (rsv : BitVec 12) (op : BitVec 4) :
    Cmd.seedValue (fieldsWord x y z rsv op) = BitVec.ofNat 32 (x.toNat % 2 ^ 32) := by
  rw [Cmd.seedValue, x_fieldsWord]
  apply BitVec.eq_of_toNat_eq
  simp

/-- Settles O30: the word by its fields (`decode_fieldsWord`), the effect by `exec_reseed`. -/
theorem reseedRestoresDefaultsAndReturnsOldSeed : Obligations.ReseedRestoresDefaultsAndReturnsOldSeed := by
  unfold Obligations.ReseedRestoresDefaultsAndReturnsOldSeed
  refine ⟨fun x y z => decode_fieldsWord (i := .reseed x) (x_fieldsWord ..).symm, fun x s => ?_⟩
  exact ⟨_, exec_reseed x s, rfl, rfl, rfl, rfl, answers_of_pack (res := 0) rfl⟩

/-- RESEEDI for either value of the switch: the seed as a number, the waiting events kept, and one zero response
(42_seed_params.md R112). -/
theorem reseediWith_effect (resetsParams : Bool) (v : Seed32) (s : State) :
    (reseediWith resetsParams v s).S.toNat = v.toNat * 2 ^ 16 + 0x330E ∧
      (reseediWith resetsParams v s).inbox = s.inbox ∧ Answers s (reseediWith resetsParams v s) 0 0 0 := by
  rw [reseediWith_fields]
  exact ⟨seedState_toNat v, rfl, answers_of_pack (sout := 0) (res := 0) rfl⟩

/-- Settles O31: the word by its fields (`decode_fieldsWord`); both values of the switch have the effect of
`reseediWith_effect` and differ in the parameters. -/
theorem reseediSeedsFromThePattern : Obligations.ReseediSeedsFromThePattern := by
  unfold Obligations.ReseediSeedsFromThePattern
  refine ⟨fun x y z => decode_fieldsWord (i := .reseedi _) (seedValue_fieldsWord_eq_ofNat ..).symm,
    fun v s => ⟨?_, ?_⟩⟩
  · obtain ⟨hS, hinbox, hanswers⟩ := reseediWith_effect Config.P_SEEDI_RESETS_PARAMS v s
    exact ⟨_, rfl, hS, rfl, rfl, hinbox, hanswers⟩
  · obtain ⟨hS, hinbox, hanswers⟩ := reseediWith_effect true v s
    exact ⟨hS, rfl, rfl, hinbox, hanswers⟩

/-- Settles O39: RESEED writes the pair that the SETP after the reset writes, and the SETP overwrites whatever the
reset left. -/
theorem reseedEqualsResetThenSetp : Obligations.ReseedEqualsResetThenSetp := by
  unfold Obligations.ReseedEqualsResetThenSetp
  intro s x
  have hreseed := (step_encode (.reseed x) s s.inbox).trans (exec_reseed x _)
  have hreset (rest : List HostEvent) :
      step { s with inbox := .reset :: rest } = .next (performReset { s with inbox := rest }) := step_reset rfl
  have hsetp := (step_encode (.setp x Config.A_DEF Config.C_DEF) (performReset s) []).trans (exec_setp ..)
  exact ⟨_, _, hreseed, (run_succ 1 (hreset _)).trans (run_succ 0 hsetp), rfl, rfl, rfl⟩

/-- Settles O29: the word by its fields (`decode_fieldsWord`), the effect by `exec_setp`. -/
theorem setpStoresItsOperands : Obligations.SetpStoresItsOperands := by
  unfold Obligations.SetpStoresItsOperands
  refine ⟨fun x y z => decode_fieldsWord (i := .setp x y z)
    ⟨(x_fieldsWord ..).symm, (y_fieldsWord ..).symm, (z_fieldsWord ..).symm⟩, fun x y z s => ?_⟩
  rw [exec_setp, Rsp.pack_zero]

end Sys2Proof.Machine

/-! ## Exceptions: legal and illegal words, the idle core, several cores -/

namespace Sys2Proof.Machine

/-- The response of an illegal command as the word R121 writes out: `err = 1` at bit 112, every other field zero. -/
theorem Rsp.pack_illegal : Rsp.pack 1 0 0 = 0x00010000000000000000000000000000#128 := by decide

/-- A word outside the opcode table decodes to no command (30_encoding.md R65 to R67). -/
theorem decode_illegal_of_not_legalWord {w : CmdWord} (hw : ¬ legalWord w = true) : ∃ c, decode w = .illegal c := by
  cases hd : decode w with
  | command i => exact absurd ((decodes_iff_legalWord w).1 ⟨i, hd⟩) hw
  | illegal c => exact ⟨c, rfl⟩

/-- A step that accepts a word takes it off the port and delivers one response, whose `err` tells whether the opcode
table holds the word (60_exceptions.md R120 to R122). -/
theorem step_command_err {s : State} {w : CmdWord} {rest : List HostEvent} (h : s.inbox = .command w :: rest) :
    ∃ (t : State) (r : RspWord), step s = .next t ∧ t.inbox = rest ∧ t.outbox = s.outbox ++ [r] ∧
      Rsp.err r = if legalWord w then 0#1 else 1#1 := by
  by_cases hw : legalWord w = true
  · obtain ⟨i, hd⟩ := (decodes_iff_legalWord w).2 hw
    obtain ⟨S', A', C', r, hport⟩ := exec_port i s
    have hexec := hport rest s.outbox
    obtain ⟨sout, res, hout, -⟩ := exec_response hexec
    exact ⟨_, _, (step_of_decode_command h hd).trans hexec, rfl, hout, by rw [Rsp.err_pack, if_pos hw]; rfl⟩
  · obtain ⟨c, hd⟩ := decode_illegal_of_not_legalWord hw
    exact ⟨_, _, step_of_decode_illegal h hd, rfl, rfl, by rw [if_neg hw]; exact Rsp.err_pack ..⟩

/-- What every step keeps, every run keeps. -/
theorem run_preserves {P : State → Prop} (hstep : ∀ s t : State, P s → step s = .next t → P t) (n : Nat) :
    ∀ {s t : State}, P s → run n s = .next t → P t := by
  induction n with
  | zero => intro s t hs h; cases h; exact hs
  | succ n ih =>
    intro s t hs h
    obtain ⟨u, hu, hrun⟩ := step_of_run h
    exact ih (hstep s u hs hu) hrun

/-- A step over legal words leaves only legal words presented and reports no error: a legal word answers `err = 0`,
a reset and an idle step answer nothing (60_exceptions.md R120, R122). -/
theorem step_keeps_onlyLegal_noErrors (s t : State) (hs : s.OnlyLegal ∧ s.NoErrors) (h : step s = .next t) :
    t.OnlyLegal ∧ t.NoErrors := by
  obtain ⟨hlegal, hnoerr⟩ := hs
  match hin : s.inbox with
  | [] =>
    cases (step_idle hin).symm.trans h
    exact ⟨hlegal, hnoerr⟩
  | .reset :: rest =>
    cases (step_reset hin).symm.trans h
    rw [State.OnlyLegal, hin] at hlegal
    exact ⟨hlegal, hnoerr⟩
  | .command w :: rest =>
    obtain ⟨u, r, hu, hinbox, hout, herr⟩ := step_command_err hin
    cases hu.symm.trans h
    rw [State.OnlyLegal, hin, commandWords, List.all_cons, Bool.and_eq_true] at hlegal
    obtain ⟨hw, hrest⟩ := hlegal
    rw [if_pos hw] at herr
    refine ⟨by rwa [State.OnlyLegal, hinbox], ?_⟩
    rw [State.NoErrors, hout, List.all_append, hnoerr]
    simp [herr]

/-- Settles O52: the run over all events presented completes (`everyPresentedEventCompletes`), and it keeps what each
step keeps (`run_preserves`, `step_keeps_onlyLegal_noErrors`). -/
theorem legalRunReportsNoError : Obligations.LegalRunReportsNoError := by
  unfold Obligations.LegalRunReportsNoError
  intro s hlegal hnoerr
  obtain ⟨t, hrun, hinbox, -, -⟩ := everyPresentedEventCompletes s
  exact ⟨t, hrun, hinbox, (run_preserves step_keeps_onlyLegal_noErrors _ ⟨hlegal, hnoerr⟩ hrun).2⟩

/-- Settles O33: such a word is not in the opcode table (`legalWord_iff`), so it decodes to no command, and the one
exception only delivers its response (`raiseIllegalCommand_fields`). -/
theorem illegalCommandOnlyAnswers : Obligations.IllegalCommandOnlyAnswers := by
  unfold Obligations.IllegalCommandOnlyAnswers
  intro s rest x y z rsv op hreserved
  have hw : ¬ legalWord (fieldsWord x y z rsv op) = true := by
    rw [legalWord_iff, rsv_fieldsWord, op_fieldsWord]
    rintro ⟨hrsv, hop⟩
    rcases hreserved with hne | hmem
    · exact hne hrsv
    · simp only [legalLowHalves, List.mem_cons, List.not_mem_nil, or_false] at hop hmem
      omega
  obtain ⟨c, hd⟩ := decode_illegal_of_not_legalWord hw
  rw [step_of_decode_illegal rfl hd, raiseIllegalCommand_fields, Rsp.pack_illegal]

/-- Settles O34: by whether the opcode table holds the word (`step_command_err`). -/
theorem errFieldTellsLegalFromIllegal : Obligations.ErrFieldTellsLegalFromIllegal := by
  unfold Obligations.ErrFieldTellsLegalFromIllegal
  intro s w rest
  obtain ⟨t, r, hstep, -, hout, herr⟩ := step_command_err (s := { s with inbox := .command w :: rest }) rfl
  exact ⟨t, r, hstep, hout, herr⟩

/-- Settles O42: RESEED answers the old `S` in `sout` (`exec_reseed`), and SETP writes its three operands
(`exec_setp`). -/
theorem reseedThenSetpPutsTheStateBack : Obligations.ReseedThenSetpPutsTheStateBack := by
  unfold Obligations.ReseedThenSetpPutsTheStateBack
  intro s v
  exact ⟨_, _, _, _, call_encode (exec_reseed v s) rfl, Rsp.sout_pack ..,
    call_encode (exec_setp _ s.A s.C _) rfl, (Rsp.sout_pack ..).symm, rfl, rfl⟩

/-- An index with no core steps nothing. -/
theorem stepInstance_of_none {k : Nat} {cores : List State} (h : cores[k]? = none) :
    stepInstance k cores = .next cores := by
  simp [stepInstance, h]

/-- The core at the index is replaced by its own next state (60_exceptions.md R130). -/
theorem stepInstance_of_some {k : Nat} {cores : List State} {s t : State} (h : cores[k]? = some s)
    (hs : step s = .next t) : stepInstance k cores = .next (cores.set k t) := by
  simp [stepInstance, h, hs]

/-- Settles O53: by whether the list has a core at the index; if so, exactly its entry is set, to its own step, which
always answers a next state (`step_wholePair`). -/
theorem instancesShareNothing : Obligations.InstancesShareNothing := by
  unfold Obligations.InstancesShareNothing
  intro k cores
  cases hk : cores[k]? with
  | none => exact ⟨cores, stepInstance_of_none hk, rfl, fun _ _ => rfl, fun s hs => by cases hs⟩
  | some s =>
    obtain ⟨t, hstep, -⟩ := step_wholePair s
    obtain ⟨hlt, -⟩ := List.getElem?_eq_some_iff.1 hk
    refine ⟨cores.set k t, stepInstance_of_some hk hstep, List.length_set,
      fun j hj => List.getElem?_set_ne hj.symm, fun u hu => ?_⟩
    cases hu
    exact ⟨t, hstep, List.getElem?_set_self hlt⟩

/-- Settles O4: with an empty inbox a step accepts nothing (`step_idle`). -/
theorem idleCoreHolds : Obligations.IdleCoreHolds := by
  unfold Obligations.IdleCoreHolds
  exact fun s => step_idle rfl

end Sys2Proof.Machine

/-! ## Reset, the first output, and a buffer used twice -/

namespace Sys2Proof.Machine

/-- Settles O2: a reset event is accepted (`step_reset`) and writes the three reset values (`performReset_fields`). -/
theorem resetEventSetsEveryRegister : Obligations.ResetEventSetsEveryRegister := by
  unfold Obligations.ResetEventSetsEveryRegister
  intro s rest
  rw [step_reset rfl, performReset_fields]
  rfl

/-- Settles O5: the runs over `before` and over `after` see neither what waits behind them nor what was delivered
(`run_events`), and the reset between them makes the registers those of `State.reset`
(`resetEventSetsEveryRegister`). -/
theorem resetCutsTheRun : Obligations.ResetCutsTheRun := by
  unfold Obligations.ResetCutsTheRun
  intro s before after
  obtain ⟨S₁, A₁, C₁, new₁, -, hbefore⟩ := run_events before s
  obtain ⟨S₂, A₂, C₂, new₂, -, hafter⟩ := run_events after State.reset
  have halone := hbefore [] s.outbox
  have hfresh := hafter [] []
  have hlater := hafter [] (s.outbox ++ new₁)
  rw [List.append_nil] at halone hfresh hlater
  have hreset := resetEventSetsEveryRegister
    { S := S₁, A := A₁, C := C₁, inbox := .reset :: after, outbox := s.outbox ++ new₁ } after
  refine ⟨_, _, halone, hfresh, ?_⟩
  rw [run_add _ (hbefore (.reset :: after) s.outbox), Nat.add_comm 1, run_succ _ hreset]
  exact hlater

/-- Settles O43: the first command leaves `A` and `C`, so the second answers from the same three values
(`call_externalCommand`). -/
theorem sameBufferTwiceSameResponse : Obligations.SameBufferTwiceSameResponse := by
  unfold Obligations.SameBufferTwiceSameResponse
  intro k buffer s
  have hA : (generateExternal k buffer s).A = s.A := rfl
  have hC : (generateExternal k buffer s).C = s.C := rfl
  have hsecond := call_externalCommand k buffer (generateExternal k buffer s)
  rw [hA, hC] at hsecond
  exact ⟨_, _, _, call_externalCommand k buffer s, hsecond⟩

/-- Settles O3: the command advances the reset state (`exec_internalCommand`) to the value R142 names, whose unsigned
output is the response. -/
theorem firstOutputAfterReset : Obligations.FirstOutputAfterReset := by
  unfold Obligations.FirstOutputAfterReset
  have hadvance : advance State.reset.S State.reset.A State.reset.C = 0x657EB7255101#48 := by decide
  have houtput : extract .u31 0x657EB7255101#48 = 851401618#64 := by decide
  have hstep := (step_encode .genuI State.reset []).trans (exec_internalCommand .u31 State.reset)
  rw [generateInternal_fields, hadvance, houtput] at hstep
  exact ⟨_, hstep, rfl, answers_of_pack (sout := 0) (res := 851401618#64) rfl⟩

end Sys2Proof.Machine

/-! ## Words written out, and the responses at reset -/

namespace Sys2Proof.Machine

/-- Settles O19: a legal word holds `rsv = 0`, its opcode and its operands (`decode_eq_command_iff`); of the other two
words the reserved bits are looked at first, then the opcode. -/
theorem writtenOutWordsDecode : Obligations.WrittenOutWordsDecode := by
  unfold Obligations.WrittenOutWordsDecode
  refine ⟨?genuI, ?gendI, ?gensX, ?setp, ?reseed, ?reseedi, ?reservedOpcode, ?reservedBits⟩
  case genuI | gendI => exact decode_eq_command_iff.2 ⟨by decide, by decide, trivial⟩
  case gensX | reseed | reseedi => exact decode_eq_command_iff.2 ⟨by decide, by decide, rfl⟩
  case setp => exact decode_eq_command_iff.2 ⟨by decide, by decide, rfl, rfl, rfl⟩
  case reservedOpcode =>
    rw [decode_of_rsv_zero (by decide)]
    decide
  case reservedBits =>
    rw [decode_of_rsv_ne_zero (by decide)]
    decide

/-- Settles O51: no response has been delivered at reset, so nothing is asked of any. -/
theorem resetResponsesOk : Obligations.ResetResponsesOk := by
  unfold Obligations.ResetResponsesOk
  have hempty : State.reset.outbox = [] := rfl
  rw [State.ResponsesOk, State.NoErrors, hempty]
  exact ⟨List.all_nil, List.all_nil⟩

end Sys2Proof.Machine
